-- ==== Sys2Proof/Word.lean ====
section
/-! DEFINITION. The word types of the Huffman codec core (spec 00_scope.md R6, R15; 10_state.md R32). -/
namespace Sys2Proof

/-- A host register, a command word, the magic number or a port fault code: 32 bits (R32, R6, R86). -/
abbrev Word := BitVec 32

/-- A byte of a stream (R6 `BYTE_BITS = 8`). -/
abbrev Byte := BitVec 8

/-- The 9-bit symbol field of a LEAF token and of a node-store entry (R6 `SYM_BITS = 9`, R45). -/
abbrev Symbol := BitVec 9

/-- A node-store index, 0 to 512 (R9, R45). The spec's index registers are 10 bits wide and never hold
a value from 513 up (log 21). -/
abbrev NodeIdx := Fin 513

/-- The sentinel symbol 256 (R6 `SENT`, R18). -/
abbrev sentinel : Symbol := 256#9

end Sys2Proof
end

