-- ==== Sys2Proof/Config.lean ====
section
/-! DEFINITION. What an implementation of the core fixes, and the free values (spec 00_scope.md section 3;
93_implementation_defined.md). -/
namespace Sys2Proof

/-- The magic number that opens every artifact: a 32-bit build constant to which the spec gives no value
(R7, D1). Opaque: no proof can see its value. The MAGIC register of `State` holds it (R37; log 4). -/
opaque Config.MAGIC : Word

/-- The width of counts and weights that a core is built with by default (R8, D13). `State.wb` holds the
width of the core at hand (log 5). -/
def Config.WB : Nat := 64

/-- The address of the register window, a platform parameter (R32, R94). Host accesses are given by their byte
offset from it (log 6). -/
opaque Config.BASE : Nat

/-- FREE VALUE (R73, X8; log 9): where the input cursor stands after the end-of-input answer number `n`. -/
opaque Config.cursorAfterEoi : Nat → Nat

end Sys2Proof
end

