-- ==== Sys2Proof/Syntax.lean ====
section
/-! DEFINITION. The encoded objects of spec/opcode_table.json: one constructor per row (30_encoding.md R110). -/
namespace Sys2Proof

/-- The two formats of the opcode table (R110): a 32-bit command word, and a header token of 1 or 10 bits. -/
inductive Format where
  | cmd32
  | hdr
  deriving DecidableEq, Repr

/-- The instructions of the core: the host's command words (R112, R113) and the header's tokens
(R117, R118). -/
inductive Instr where
  /-- COMPRESS, command word 0x00000001 (R112, R152). -/
  | compress
  /-- DECOMPRESS, command word 0x00000002 (R112, R154). -/
  | decompress
  /-- ILLEGAL, every other command word `w` (R113, R156). -/
  | illegal (w : Word)
  /-- NODE, the header token `"0"` (R117). -/
  | node
  /-- LEAF, the header token `"1"` followed by the 9-bit symbol (R118). -/
  | leaf (sym : Symbol)
  deriving DecidableEq, Repr

/-- The format an instruction is encoded in (R110). -/
def Instr.format : Instr → Format
  | .compress => .cmd32
  | .decompress => .cmd32
  | .illegal _ => .cmd32
  | .node => .hdr
  | .leaf _ => .hdr

end Sys2Proof
end

