-- ==== Sys2Proof/WellFormed.lean ====
section
/-! DEFINITION. Which terms of `Instr` are instructions of the core: ILLEGAL stands for the words that are no
other row's (30_encoding.md R113). -/
namespace Sys2Proof

/-- Well-formedness. A LEAF symbol may be any 9-bit value: 257 to 511 are accepted in a header (R120, R262). -/
def Instr.wf : Instr → Bool
  | .compress => true
  | .decompress => true
  | .illegal w => w != 1#32 && w != 2#32
  | .node => true
  | .leaf _ => true

end Sys2Proof
end

