-- ==== Sys2Proof/Decode.lean ====
section
/-! DEFINITION. Bit strings (00_scope.md R14), the decoder of command words and header tokens
(30_encoding.md R111 to R118, R125), and the encoder. -/
namespace Sys2Proof

/-- `bin n v` is `bin_n(v)`: the `n` low bits of `v`, most significant bit first (R14). -/
def bin : Nat → Nat → List Bool
  | 0, _ => []
  | n + 1, v => v.testBit n :: bin n v

/-- `val s`: the unsigned integer whose binary numeral, most significant bit first, is `s` (R14). -/
def val (s : List Bool) : Nat :=
  s.foldl (fun acc b => 2 * acc + b.toNat) 0

/-- Why a bit string holds no whole instruction at its start. -/
inductive DecodeError where
  /-- Fewer than 32 bits of a command word. -/
  | shortCommand
  /-- No flag bit of a header token. -/
  | noFlag
  /-- A LEAF flag with fewer than 9 bits after it. -/
  | shortSymbol
  deriving DecidableEq, Repr

/-- The command a word selects: the whole word decides, and every word selects one (R111 to R113). -/
def decodeCommand (w : Word) : Instr :=
  if w = 1#32 then .compress
  else if w = 2#32 then .decompress
  else .illegal w

/-- Reads one header token off a bit string and answers it with the rest: the flag 0 is a whole NODE token, the
flag 1 is followed by the 9 symbol bits (R117, R118, R125). -/
def decodeToken : List Bool → Except DecodeError (Instr × List Bool)
  | [] => .error .noFlag
  | false :: rest => .ok (.node, rest)
  | true :: rest =>
    if rest.length < 9 then .error .shortSymbol
    else .ok (.leaf (BitVec.ofNat 9 (val (rest.take 9))), rest.drop 9)

/-- The decoder, total on every bit string: the first instruction of the given format, and the bits after it
(R110). -/
def decode : Format → List Bool → Except DecodeError (Instr × List Bool)
  | .cmd32, bits =>
    if bits.length < 32 then .error .shortCommand
    else .ok (decodeCommand (BitVec.ofNat 32 (val (bits.take 32))), bits.drop 32)
  | .hdr, bits => decodeToken bits

/-- The bits of an instruction, in stream order for a token and most significant bit first for a command word
(R112, R113, R117, R118). -/
def encode : Instr → List Bool
  | .compress => bin 32 1
  | .decompress => bin 32 2
  | .illegal w => bin 32 w.toNat
  | .node => [false]
  | .leaf sym => true :: bin 9 sym.toNat

/-- The format of an opcode-table row of `nbits` bits (whole bytes): the NODE row has 1 bit, the LEAF row 10, the
command words 32 (log 27). -/
def tableFormat (nbits : Nat) : Format :=
  if nbits ≤ 16 then .hdr else .cmd32

/-- The bits of a table word in stream order. The table numbers a token as a number, so its first stream bit
is its most significant bit: bit 0 of the 1-bit NODE row, bit 9 of the 10-bit LEAF row (R118; log 27). -/
def tableBits (nbits w : Nat) : List Bool :=
  if nbits ≤ 8 then bin 1 w
  else if nbits ≤ 16 then bin 10 w
  else bin 32 w

/-- The instruction the decoder reads from a word numbered as spec/opcode_table.json numbers it. -/
def decodeTableWord (nbits w : Nat) : Option Instr :=
  match decode (tableFormat nbits) (tableBits nbits w) with
  | .ok (i, _) => some i
  | .error _ => none

end Sys2Proof
end

