-- ==== Sys2Proof/Machine/State.lean ====
section
/-! DEFINITION. The state of the core, of its two ports, and of the inputs still to come (spec 10_state.md,
20_memory.md; INVENTORY.md lists every field with its rule). -/
namespace Sys2Proof.Machine

/-- The error codes of STATUS.ERRCODE, 0 to 10 (60_exceptions.md R310); 11 to 15 are never produced. -/
inductive ErrCode where
  | noError
  | badMagic
  | truncatedHeader
  | truncatedPayload
  | portFaultIn
  | portFaultOut
  | badSymbol
  | nodeOverflow
  | countOverflow
  | noCode
  | illegalCommand
  deriving DecidableEq, Repr

/-- STATUS (R34): its four fields; the reserved bits read 0 (`Status.word`). -/
structure Status where
  busy : Bool
  done : Bool
  err : Bool
  errcode : ErrCode
  deriving DecidableEq, Repr

/-- OP, the command in progress (R39). -/
inductive Op where
  | noOp
  | compress
  | decompress
  deriving DecidableEq, Repr

/-- PHASE, the sequencer state (R41). -/
inductive Phase where
  | idle
  | count
  | build
  | gencodes
  | wmagic
  | wheader
  | rewind
  | encode
  | rmagic
  | rheader
  | decode
  | close
  deriving DecidableEq, Repr

/-- Which transaction of its phase the core issues next. R12 ends a step before the next port transaction, and some
phases have several in turn, so the machine remembers where it stands (log 2). -/
inductive Pending where
  /-- The phase's only transaction, or the one at the top of its loop. -/
  | top
  /-- A LEAF token's flag is transferred and its 9-bit symbol is next (R250, R254). -/
  | symField
  /-- ENCODE writes the code of symbol `k` next (R280). -/
  | code (k : Fin 257)
  /-- DECODE writes the literal byte `b` next (R285, R289). -/
  | literal (b : Byte)
  deriving DecidableEq, Repr

/-- An entry of the node store NODE (R45): KIND (`isLeaf` is KIND = 1), SYM, W, L and R. W is exact (R15, R186;
log 5). -/
structure NodeEntry where
  isLeaf : Bool
  sym : Symbol
  w : Nat
  l : NodeIdx
  r : NodeIdx
  deriving DecidableEq, Repr

/-- An entry of the code table CODE (R48): LEN (0 to 256) and BITS, right-aligned. -/
structure CodeEntry where
  len : Fin 257
  bits : BitVec 256
  deriving DecidableEq, Repr

/-- An entry of HSTACK (R49): a node whose subtree is pending. `side` is used by header reading (true when the left child
is complete and the right child is being read) and is false in header writing (log 22). -/
structure Frame where
  node : NodeIdx
  side : Bool
  deriving DecidableEq, Repr

/-- The input port (R71 to R74): the source bytes SRC, the read cursor `ic` in bits, and whether InRead has returned
EOI since the last InReset. -/
structure InPort where
  src : List Byte
  ic : Nat
  eoi : Bool
  deriving DecidableEq, Repr

/-- The output port (R76 to R78): the bits OB of the current command, the closed flag `oc`, and the bytes the last
OutClose delivered to the sink. -/
structure OutPort where
  ob : List Bool
  oc : Bool
  sink : List Byte
  deriving DecidableEq, Repr

/-- What a faulting transaction did to its port, an input because R86 leaves it unspecified (log 8): the cursor and the
end-of-input condition after a faulting input transaction, the bits a faulting OutWrite or OutClose appended to OB (its
padding, some of it or none), the bytes a faulting OutClose delivered and whether it closed the port. -/
structure FaultEffect where
  cursor : Nat
  eoi : Bool
  bits : List Bool
  sink : List Byte
  closed : Bool
  deriving DecidableEq, Repr

/-- How a port takes the core's next transaction (R16, R86, R362): as its contract says, with a fault, or never. -/
inductive Draw where
  | serve
  | fault (c : Word) (e : FaultEffect)
  | silent
  deriving DecidableEq, Repr

/-- What the host or the platform can do to the machine (log 29). -/
inductive HostEvent where
  /-- A read of `bytes` bytes at a byte offset from BASE (R32, R38). -/
  | regRead (offset bytes : Nat)
  /-- A write of `bytes` bytes at a byte offset from BASE (R32, R33). -/
  | regWrite (offset bytes : Nat) (w : Word)
  /-- The reset event (R350); when the core is busy, `inp` and `out` are the streams after it (R351; log 24). -/
  | reset (inp : InPort) (out : OutPort)
  /-- The host presents a source with the cursor at a bit (R354, R355); `aliased` says the platform feeds the output
  back to this input (R364). -/
  | connect (src : List Byte) (cursor : Nat) (aliased : Bool)
  /-- The host opens a new, empty output (R356). -/
  | openOutput
  /-- The host closes the output itself (R351, R360). -/
  | closeOutput
  /-- The host itself reads `n` bits of the input port (R72, R360; log 33). -/
  | portRead (n : Nat)
  /-- The host itself rewinds the input port (R75, R360; log 33). -/
  | portRewind
  /-- The host itself writes `n` bits of value `v` to the output port (R77, R360; log 33). -/
  | portWrite (n v : Nat)
  /-- The bytes behind the input port change, the cursor stays (R357). -/
  | sourceChange (src : List Byte)
  deriving DecidableEq, Repr

/-- One turn: the core's, with the answer its port gives if the turn issues a transaction, or the host's (log 7). -/
inductive Input where
  | core (d : Draw)
  | host (e : HostEvent)
  deriving DecidableEq, Repr

/-- The answer of an input-port transaction (R16): `val` with a value below `2^n`, EOI, or FAULT. -/
inductive InAnswer where
  | val (v : Nat)
  | eoi
  | fault (c : Word)
  deriving DecidableEq, Repr

/-- The answer of InReset, OutWrite or OutClose (R16). -/
inductive AckAnswer where
  | ok
  | fault (c : Word)
  deriving DecidableEq, Repr

/-- A port transaction with its answer, as an observer of the ports sees it (R12, R16, R88). -/
inductive Transaction where
  | inRead (n : Nat) (a : InAnswer)
  | inReset (a : AckAnswer)
  | outWrite (n v : Nat) (a : AckAnswer)
  | outClose (a : AckAnswer)
  deriving DecidableEq, Repr

/-- The whole state: host-visible registers, datapath registers, internal memories (10_state.md R30), the ports
(20_memory.md R71, R76), and the model's own fields. CMD holds no state (R33). -/
structure State where
  magic : Word
  wb : Nat
  status : Status
  errinfo : Word
  op : Op
  phase : Phase
  pending : Pending
  total : Nat
  nnodes : Nat
  root : NodeIdx
  cur : NodeIdx
  freq : Vector Nat 256
  node : Vector NodeEntry 513
  q : List NodeIdx
  code : Vector CodeEntry 257
  hstack : List Frame
  inp : InPort
  out : OutPort
  aliased : Bool
  inputs : List Input
  hostData : Word
  trace : List Transaction
  freeIdx : Nat
  deriving DecidableEq, Repr

/-- Why the machine stops. -/
inductive Fault where
  /-- A port never answers the transaction the core issued: the step has no successor (R362, X10). Raised by every
  port operation of Machine/Ops.lean. Safe: the hardware is stuck there too. -/
  | portNeverAnswers
  /-- BUILD needs a 514th node. R211 says it never does; raised only in states no run reaches. Safe. -/
  | nodeStoreFull
  /-- BUILD finds Q empty. Q always holds a node (R203, R206); raised only in states no run reaches. Safe. -/
  | queueEmpty
  /-- GENCODES descends deeper than HSTACK_CAP. R10 and R49 say it never does; raised only in states no run reaches.
  Safe. -/
  | stackOverflow
  /-- GENCODES reaches a leaf whose symbol has no entry of CODE. BUILD makes symbols 0 to 256 only (R210); raised
  only in states no run reaches. Safe. -/
  | symbolBeyondTable
  /-- GENCODES reaches a leaf deeper than 256. BUILD makes none (R207, R234); raised only in states no run reaches.
  Safe. -/
  | codeTooLong
  /-- OutWrite with a width outside 1 to 256 (R77). The sentinel always has a code (R236); raised only in states no run
  reaches. Safe. -/
  | writeWidth
  deriving DecidableEq, Repr

/-- Why the machine refuses. -/
inductive Refusal where
  /-- An instruction without a meaning; raised by exec's arm alone. Safe. -/
  | notModelled (mnemonic : String)
  /-- A host access other than an aligned 32-bit one to offset 0x0, 0x4, 0x8 or 0xC (R38, R359, X26); raised by the
  register window. Safe. -/
  | badRegisterAccess
  /-- The host uses a port while BUSY = 1 (R360, X27); raised by the host's port events. Safe. -/
  | portInUse
  /-- A port access of the host's own with a width or a value outside R72 and R77 (log 33); raised by the host's port
  events. Safe. -/
  | badPortAccess
  /-- A command launched with its output feeding its input (R364, X27); raised by COMPRESS and DECOMPRESS. Safe. -/
  | streamsAliased
  /-- COMPRESS launched with the input cursor not at the first bit of the source (R354, X27); raised by COMPRESS. Safe. -/
  | cursorNotAtStart
  /-- A command launched with an output port that is not open (R356, X27), or OutWrite or OutClose on one (R77, R78);
  raised by COMPRESS and DECOMPRESS, by a host's own write, and by the core's two operations, which no run reaches with a
  closed port. Safe. -/
  | outputNotOpen
  /-- A NODE or LEAF token where no header is being read or written: no rule gives it a meaning there. Raised by
  the two token meanings, which the sequencer never calls there. Safe. -/
  | tokenOutsideHeader
  deriving DecidableEq, Repr

/-- A node-store entry with every field 0. -/
def NodeEntry.zero : NodeEntry :=
  { isLeaf := false, sym := 0#9, w := 0, l := 0, r := 0 }

/-- `LEN = 0`: no code (R48, R231). -/
def CodeEntry.zero : CodeEntry :=
  { len := 0, bits := 0#256 }

/-- The machine right after reset (R54): STATUS and ERRINFO 0, OP 0, PHASE IDLE, MAGIC the build constant. The registers
and memories R54 leaves unspecified are 0 or empty (log 1), the ports hold an empty source and an open, empty output
(log 3), and the model's own fields are empty or 0 (log 2). -/
def State.reset : State where
  magic := Config.MAGIC
  wb := Config.WB
  status := { busy := false, done := false, err := false, errcode := .noError }
  errinfo := 0#32
  op := .noOp
  phase := .idle
  pending := .top
  total := 0
  nnodes := 0
  root := 0
  cur := 0
  freq := Vector.replicate 256 0
  node := Vector.replicate 513 NodeEntry.zero
  q := []
  code := Vector.replicate 257 CodeEntry.zero
  hstack := []
  inp := { src := [], ic := 0, eoi := false }
  out := { ob := [], oc := false, sink := [] }
  aliased := false
  inputs := []
  hostData := 0#32
  trace := []
  freeIdx := 0

end Sys2Proof.Machine
end

