-- ==== Sys2Proof/Machine/Flags.lean ====
section
/-! DEFINITION. The flags: the numeric codes of ERRCODE, OP and PHASE, the STATUS word, and its update points
(10_state.md R34, R35, R39, R41, R53; 60_exceptions.md R310). -/
namespace Sys2Proof.Machine

/-- The number of an error code in STATUS.ERRCODE (R310). -/
def ErrCode.number : ErrCode → BitVec 4
  | .noError => 0#4
  | .badMagic => 1#4
  | .truncatedHeader => 2#4
  | .truncatedPayload => 3#4
  | .portFaultIn => 4#4
  | .portFaultOut => 5#4
  | .badSymbol => 6#4
  | .nodeOverflow => 7#4
  | .countOverflow => 8#4
  | .noCode => 9#4
  | .illegalCommand => 10#4

/-- The number held in OP (R39). -/
def Op.number : Op → BitVec 2
  | .noOp => 0#2
  | .compress => 1#2
  | .decompress => 2#2

/-- The number held in PHASE (R41). -/
def Phase.number : Phase → BitVec 4
  | .idle => 0#4
  | .count => 1#4
  | .build => 2#4
  | .gencodes => 3#4
  | .wmagic => 4#4
  | .wheader => 5#4
  | .rewind => 6#4
  | .encode => 7#4
  | .rmagic => 8#4
  | .rheader => 9#4
  | .decode => 10#4
  | .close => 11#4

/-- The 32-bit word a read of STATUS returns (R34): ERRCODE in bits 11:8, ERR, DONE and BUSY in bits 2, 1 and 0, zeros
in the reserved bits 31:12 and 7:3. -/
def Status.word (st : Status) : Word :=
  0#20 ++ st.errcode.number ++ 0#5 ++ BitVec.ofBool st.err ++ BitVec.ofBool st.done ++ BitVec.ofBool st.busy

/-- STATUS at the acceptance of a command (R35, R150). -/
def Status.accepted : Status :=
  { busy := true, done := false, err := false, errcode := .noError }

/-- STATUS at error entry: ERRCODE and ERR, and nothing else (R35, R320). -/
def Status.withError (st : Status) (e : ErrCode) : Status :=
  { st with err := true, errcode := e }

/-- STATUS at command completion: BUSY and DONE, and nothing else (R35, R157). -/
def Status.completed (st : Status) : Status :=
  { st with busy := false, done := true }

end Sys2Proof.Machine
end

