-- ==== Sys2Proof/Machine/Operands.lean ====
section
/-! DEFINITION. The operand forms: fields of the two bit streams, the packing of stream bits into bytes, codes as
fields, and the header token of a node (20_memory.md R71, R72, R78, R80, R81; 30_encoding.md R116, R122). -/
namespace Sys2Proof.Machine

/-- The bits of a byte sequence in stream order: bit 7 of the first byte first (R71, R80). -/
def bitsOf : List Byte → List Bool
  | [] => []
  | b :: rest => bin 8 b.toNat ++ bitsOf rest

/-- The bytes of a bit sequence whose length is a multiple of 8: the first bit is bit 7 of the first byte (R78, R80). -/
def bytesOf : List Bool → List Byte
  | b7 :: b6 :: b5 :: b4 :: b3 :: b2 :: b1 :: b0 :: rest =>
    BitVec.ofNat 8 (val [b7, b6, b5, b4, b3, b2, b1, b0]) :: bytesOf rest
  | _ => []

/-- How many zero bits OutClose appends: the least number that makes the length a multiple of 8 (R78). -/
def padding (bits : List Bool) : Nat :=
  (8 - bits.length % 8) % 8

/-- A bit sequence padded with zero bits to whole bytes (R78, R123). -/
def padded (bits : List Bool) : List Bool :=
  bits ++ List.replicate (padding bits) false

/-- The number of bits of the input stream, `8N` (R71). -/
def InPort.size (p : InPort) : Nat :=
  8 * p.src.length

/-- The input bits from the cursor on (R71). -/
def InPort.ahead (p : InPort) : List Bool :=
  (bitsOf p.src).drop p.ic

/-- InRead(n) has no value to return: EOI was returned since the last InReset, or fewer than `n` bits remain
(R73, R74). -/
def InPort.exhausted (p : InPort) (n : Nat) : Bool :=
  p.eoi || decide (p.size < p.ic + n)

/-- The value of the next `n` bits, the first of them the most significant (R72). -/
def InPort.field (p : InPort) (n : Nat) : Nat :=
  val (p.ahead.take n)

/-- An input port with its cursor within the stream, as R71 has it. -/
def InPort.clipped (p : InPort) : InPort :=
  { p with ic := min p.ic p.size }

/-- The bit string of a code-table entry, `bin_LEN(BITS[LEN-1:0])` (R48). -/
def CodeEntry.bitString (e : CodeEntry) : List Bool :=
  bin e.len.val e.bits.toNat

/-- The index of a byte in CODE (R48). -/
def byteIndex (b : Byte) : Fin 257 :=
  ⟨b.toNat, Nat.lt_succ_of_lt b.isLt⟩

/-- The index of the sentinel in CODE (R48). -/
def sentinelIndex : Fin 257 := 256

/-- The header token that stands for a node-store entry: LEAF with its symbol, or NODE (R116 to R118, R250). -/
def NodeEntry.token (e : NodeEntry) : Instr :=
  if e.isLeaf then .leaf e.sym else .node

end Sys2Proof.Machine
end

