-- ==== Sys2Proof/Machine/Ops.lean ====
section
/-! DEFINITION. The shared operations: the port transactions (00_scope.md R16; 20_memory.md), the node store and its
allocation, error entry, command completion, and the reset event. -/
namespace Sys2Proof.Machine

/-- Goes on with the result of an operation, or stops as it stopped. -/
def andThen {α β : Type} (x : Host.Outcome α Fault Refusal) (f : α → Host.Outcome β Fault Refusal) :
    Host.Outcome β Fault Refusal :=
  match x with
  | .next a => f a
  | .fault r => .fault r
  | .refused r => .refused r

/-- How the port takes the core's next transaction: as the head of `inputs` says if that is a turn of the core, and as
its contract says otherwise (log 7, 8). -/
def State.draw (s : State) : Draw :=
  match s.inputs with
  | .core d :: _ => d
  | _ => .serve

/-- The state once the core's turn at the head of `inputs` is used up. -/
def State.turn (s : State) : State :=
  match s.inputs with
  | .core _ :: rest => { s with inputs := rest }
  | _ => s

/-- A transaction is seen at the ports, after those already seen (R87, R88). -/
def State.record (s : State) (t : Transaction) : State :=
  { s with trace := s.trace ++ [t] }

/-- The input port after a faulting transaction: its cursor and end-of-input condition are unspecified (R86; log 8). -/
def InPort.afterFault (p : InPort) (e : FaultEffect) : InPort :=
  InPort.clipped { p with ic := e.cursor, eoi := e.eoi }

/-- The input port after EOI. The cursor is a free value within the stream (R71, R73; log 9). -/
def InPort.afterEoi (p : InPort) (n : Nat) : InPort :=
  { p with ic := Config.cursorAfterEoi n % (p.size + 1), eoi := true }

/-- `InRead(n)` (R72 to R74, R86, R362). -/
def inRead (n : Nat) (s : State) : Host.Outcome (InAnswer × State) Fault Refusal :=
  match s.draw with
  | .silent => .fault .portNeverAnswers
  | .fault c e =>
    .next (.fault c, { s.turn.record (.inRead n (.fault c)) with inp := s.inp.afterFault e })
  | .serve =>
    if s.inp.exhausted n then
      .next (.eoi, { s.turn.record (.inRead n .eoi) with
        inp := s.inp.afterEoi s.freeIdx, freeIdx := s.freeIdx + 1 })
    else
      .next (.val (s.inp.field n), { s.turn.record (.inRead n (.val (s.inp.field n))) with
        inp := { s.inp with ic := s.inp.ic + n } })

/-- `InReset()` (R75, R86, R362). -/
def inReset (s : State) : Host.Outcome (AckAnswer × State) Fault Refusal :=
  match s.draw with
  | .silent => .fault .portNeverAnswers
  | .fault c e =>
    .next (.fault c, { s.turn.record (.inReset (.fault c)) with inp := s.inp.afterFault e })
  | .serve =>
    .next (.ok, { s.turn.record (.inReset .ok) with inp := { s.inp with ic := 0, eoi := false } })

/-- `OutWrite(n, v)` (R77, R86, R362). A port that is not open is outside the contract (R77, R356, X27). -/
def outWrite (n v : Nat) (s : State) : Host.Outcome (AckAnswer × State) Fault Refusal :=
  if n = 0 ∨ 256 < n then .fault .writeWidth
  else if s.out.oc then .refused .outputNotOpen
  else
    match s.draw with
    | .silent => .fault .portNeverAnswers
    | .fault c e =>
      .next (.fault c, { s.turn.record (.outWrite n v (.fault c)) with
        out := { s.out with ob := s.out.ob ++ e.bits } })
    | .serve =>
      .next (.ok, { s.turn.record (.outWrite n v .ok) with
        out := { s.out with ob := s.out.ob ++ bin n v } })

/-- The output port once it is closed: the bits are padded to whole bytes and delivered (R78). A port that is closed
already stays as it is when the host closes it again (log 15). -/
def OutPort.closed (p : OutPort) : OutPort :=
  if p.oc then p else { ob := padded p.ob, oc := true, sink := bytesOf (padded p.ob) }

/-- `OutClose()` (R78, R86, R362). A port that is not open is outside the contract (R78, R356, X27). What a faulting
OutClose appended to OB, delivered and closed is a draw (R86, X9; log 8). -/
def outClose (s : State) : Host.Outcome (AckAnswer × State) Fault Refusal :=
  if s.out.oc then .refused .outputNotOpen
  else
    match s.draw with
    | .silent => .fault .portNeverAnswers
    | .fault c e =>
      .next (.fault c, { s.turn.record (.outClose (.fault c)) with
        out := { ob := s.out.ob ++ e.bits, oc := e.closed, sink := e.sink } })
    | .serve =>
      .next (.ok, { s.turn.record (.outClose .ok) with out := s.out.closed })

/-- `MemRead(NODE, i)` (R16, R45). -/
def State.nodeAt (s : State) (i : NodeIdx) : NodeEntry :=
  s.node[i.val]

/-- `MemWrite(NODE, i, e)` (R16, R45). -/
def State.setNode (s : State) (i : NodeIdx) (e : NodeEntry) : State :=
  { s with node := s.node.set i.val e }

/-- `NODE[i] <- Leaf(SYM, W)`: KIND, SYM and W; a leaf's L and R are never read and stay (R45; log 20). -/
def State.setLeaf (s : State) (i : NodeIdx) (sym : Symbol) (w : Nat) : State :=
  s.setNode i { s.nodeAt i with isLeaf := true, sym := sym, w := w }

/-- Allocation: entry NNODES is next, and none is left once NNODES is NODE_CAP = 513 (R9, R42, R45, R200, R254). -/
def alloc (s : State) : Option (NodeIdx × State) :=
  if h : s.nnodes < 513 then some (⟨s.nnodes, h⟩, { s with nnodes := s.nnodes + 1 }) else none

/-- ERROR ENTRY, `raise E(info)` (R320): ERRCODE, ERR and ERRINFO are written, the current phase is abandoned, and the
command goes on to COMPLETE, whose OutClose is the next transaction. BUSY stays 1.
DESIGN CHOICE (log 19): the internal memories, which R324 leaves unspecified after an error, stay as they were. -/
def raise (e : ErrCode) (info : Word) (s : State) : State :=
  { s with
    status := s.status.withError e
    errinfo := info
    phase := .close
    pending := .top }

/-- The end of COMPLETE, once OutClose has answered (R157): a fault is reported only if no error was raised before
(R322), then BUSY 0, DONE 1, PHASE IDLE, OP 0. Nothing else ends a command, and there is no return from an
error (R326). -/
def complete (a : AckAnswer) (s : State) : State :=
  let st : State :=
    match a with
    | .fault c =>
      if s.status.errcode = .noError then
        { s with status := s.status.withError .portFaultOut, errinfo := c }
      else s
    | .ok => s
  { st with status := st.status.completed, phase := .idle, op := .noOp, pending := .top }

/-- The reset event (R350): every register of R54 at its reset value, MAGIC unchanged. A core that was busy leaves both
streams as the event says, since R351 leaves them unspecified; an idle core's reset does not touch them (N6; log 24). -/
def coreReset (inp : InPort) (out : OutPort) (s : State) : State :=
  { State.reset with
    magic := s.magic
    wb := s.wb
    inp := if s.status.busy then inp.clipped else s.inp
    out := if s.status.busy then out else s.out
    aliased := s.aliased
    inputs := s.inputs
    hostData := s.hostData
    freeIdx := s.freeIdx }

end Sys2Proof.Machine
end

