-- ==== Sys2Proof/Machine/CodeTable.lean ====
section
/-! DEFINITION. The Code Table Generator: GENCODES (43_code_table.md). It issues no port transaction and is part of the step
of COUNT's EOI (00_scope.md R12). -/
namespace Sys2Proof.Machine

/-- `HSTACK_CAP`: the deepest any traversal's recursion goes (R10). -/
def hstackCap : Nat := 513

/-- The start of GENCODES: no symbol has a code (R230, R231). -/
def startGencodes (s : State) : State :=
  { s with phase := .gencodes, code := Vector.replicate 257 CodeEntry.zero }

/-- `CODE[sym] <- (LEN = |p|, BITS = val(p))` (R230, R48). -/
def setCode (sym : Symbol) (p : List Bool) (s : State) : Host.Outcome State Fault Refusal :=
  if hs : sym.toNat < 257 then
    if hp : p.length < 257 then
      .next { s with code := s.code.set sym.toNat { len := ⟨p.length, hp⟩, bits := BitVec.ofNat 256 (val p) } }
    else .fault .codeTooLong
  else .fault .symbolBeyondTable

/-- `VISIT(i, p)`, the left subtree before the right (R230, R232). The first argument bounds the levels of
recursion (R10). -/
def visit : Nat → NodeIdx → List Bool → State → Host.Outcome State Fault Refusal
  | 0, _, _, _ => .fault .stackOverflow
  | levels + 1, i, p, s =>
    if (s.nodeAt i).isLeaf then setCode (s.nodeAt i).sym p s
    else
      andThen (visit levels (s.nodeAt i).l (p ++ [false]) s) fun t =>
        visit levels (s.nodeAt i).r (p ++ [true]) t

/-- The codes of the tree at ROOT: the code `"0"` when the root is the only leaf, and the paths otherwise (R230, R232,
R233). The `HSTACK_CAP` levels of internal nodes and a leaf below them are the most VISIT can need (R10). -/
def assignCodes (s : State) : Host.Outcome State Fault Refusal :=
  if (s.nodeAt s.root).isLeaf then setCode (s.nodeAt s.root).sym [false] s
  else visit (hstackCap + 1) s.root [] s

/-- GENCODES, and then WMAGIC (R230, R158). -/
def gencodes (s : State) : Host.Outcome State Fault Refusal :=
  andThen (assignCodes (startGencodes s)) fun t => .next { t with phase := .wmagic, pending := .top }

end Sys2Proof.Machine
end

