-- ==== Sys2Proof/Machine/TreeBuilder.lean ====
section
/-! DEFINITION. The Tree Builder: BUILD (42_tree_builder.md). It issues no port transaction and is part of the step of
COUNT's EOI (00_scope.md R12). -/
namespace Sys2Proof.Machine

/-- The leaves BUILD starts from: a leaf per byte value with a positive count, in ascending byte value, then the
sentinel with weight 1 (R202, R203). -/
def seedLeaves (freq : Vector Nat 256) : List (Symbol × Nat) :=
  (List.finRange 256).filterMap
      (fun b => if freq[b.val] > 0 then some (BitVec.ofNat 9 b.val, freq[b.val]) else none)
    ++ [(sentinel, 1)]

/-- Allocates, writes and inserts one leaf (R200). -/
def seedLeaf (x : Symbol × Nat) (s : State) : Option State :=
  match alloc s with
  | none => none
  | some (i, t) => some { t.setLeaf i x.1 x.2 with q := t.q ++ [i] }

/-- Allocates, writes and inserts the leaves of a list in order (R202, R203). -/
def seedAll : List (Symbol × Nat) → State → Option State
  | [], s => some s
  | x :: rest, s =>
    match seedLeaf x s with
    | none => none
    | some t => seedAll rest t

/-- The start of BUILD: an empty node store, an empty Q, then every leaf (R200 to R203). -/
def startBuild (s : State) : Host.Outcome State Fault Refusal :=
  match seedAll (seedLeaves s.freq) { s with phase := .build, nnodes := 0, q := [] } with
  | some t => .next t
  | none => .fault .nodeStoreFull

/-- The lexicographic order of `(W, index)` that extraction follows (R204). -/
def ranksBefore (w : NodeIdx → Nat) (i j : NodeIdx) : Bool :=
  decide (w i < w j) || (decide (w i = w j) && decide (i.val < j.val))

/-- The index of a list that ranks first (R204). -/
def firstRanked (w : NodeIdx → Nat) : List NodeIdx → Option NodeIdx
  | [] => none
  | i :: rest =>
    match firstRanked w rest with
    | none => some i
    | some j => if ranksBefore w i j then some i else some j

/-- `EXTRACT_MIN(Q)`: removes and returns the index whose `(W, index)` is least (R200, R204). -/
def extractMin (s : State) : Option (NodeIdx × State) :=
  match firstRanked (fun i => (s.nodeAt i).w) s.q with
  | none => none
  | some i => some (i, { s with q := s.q.erase i })

/-- The node a merge makes of the first and the second extracted node: its weight is their sum, the first is the left
child and the second the right, SYM is 0 (R205, R45). -/
def mergedNode (s : State) (a c : NodeIdx) : NodeEntry :=
  { isLeaf := false, sym := 0#9, w := (s.nodeAt a).w + (s.nodeAt c).w, l := a, r := c }

/-- One turn of BUILD's loop (R200, R204 to R206). -/
def mergeStep (s : State) : Host.Outcome State Fault Refusal :=
  match extractMin s with
  | none => .fault .queueEmpty
  | some (a, s1) =>
    match extractMin s1 with
    | none => .fault .queueEmpty
    | some (c, s2) =>
      match alloc s2 with
      | none => .fault .nodeStoreFull
      | some (m, s3) => .next { s3.setNode m (mergedNode s2 a c) with q := s3.q ++ [m] }

/-- BUILD's loop and its end: a merge while Q holds more than one node, and then ROOT (R200, R206). The first argument is
the number of nodes in Q, which each merge lowers by one. -/
def mergeAll : Nat → State → Host.Outcome State Fault Refusal
  | 0, _ => .fault .queueEmpty
  | size + 1, s =>
    match s.q with
    | [] => .fault .queueEmpty
    | [r] => .next { s with root := r, q := [] }
    | _ :: _ :: _ => andThen (mergeStep s) (mergeAll size)

/-- BUILD (R200). -/
def build (s : State) : Host.Outcome State Fault Refusal :=
  andThen (startBuild s) fun t => mergeAll t.q.length t

end Sys2Proof.Machine
end

