-- ==== Sys2Proof/Machine/FrequencyCounter.lean ====
section
/-! DEFINITION. The Frequency Counter: COUNT (41_frequency_counter.md). -/
namespace Sys2Proof.Machine

/-- The start of COUNT: FREQ all zero and TOTAL 0, then the first read (R180, R181). -/
def startCount (s : State) : State :=
  { s with phase := .count, pending := .top, freq := Vector.replicate 256 0, total := 0 }

/-- One counted byte (R180, R182). -/
def countByte (b : Byte) (s : State) : State :=
  { s with freq := s.freq.set b.toNat (s.freq[b.toNat] + 1) b.isLt, total := s.total + 1 }

/-- One turn of COUNT's loop: a read of 8 bits, and what its answer leads to (R180, R183 to R185, R187). After EOI, BUILD
and GENCODES run in the same step, up to the next port transaction (R12, R158). -/
def countStep (s : State) : Host.Outcome State Fault Refusal :=
  andThen (inRead 8 s) fun r =>
    match r.1 with
    | .fault c => .next (raise .portFaultIn c r.2)
    | .eoi => andThen (build r.2) gencodes
    | .val v =>
      if r.2.total = 2 ^ r.2.wb - 2 then .next (raise .countOverflow 0#32 r.2)
      else .next (countByte (BitVec.ofNat 8 v) r.2)

end Sys2Proof.Machine
end

