-- ==== Sys2Proof/Machine/Transcoder.lean ====
section
/-! DEFINITION. The Stream Transcoder: REWIND, ENCODE and DECODE (45_transcoder.md). -/
namespace Sys2Proof.Machine

/-- REWIND: InReset, then ENCODE (R281, R158). -/
def rewindStep (s : State) : Host.Outcome State Fault Refusal :=
  andThen (inReset s) fun r =>
    match r.1 with
    | .fault c => .next (raise .portFaultIn c r.2)
    | .ok => .next { r.2 with phase := .encode, pending := .top }

/-- ENCODE's read: a byte with a code has it written next, one without raises NO_CODE, and the end of the source leads to
the sentinel's code (R280, R282 to R284). -/
def encodeRead (s : State) : Host.Outcome State Fault Refusal :=
  andThen (inRead 8 s) fun r =>
    match r.1 with
    | .fault c => .next (raise .portFaultIn c r.2)
    | .eoi => .next { r.2 with pending := .code sentinelIndex }
    | .val v =>
      if (r.2.code[(byteIndex (BitVec.ofNat 8 v)).val]).len = 0 then
        .next (raise .noCode (BitVec.ofNat 32 v) r.2)
      else .next { r.2 with pending := .code (byteIndex (BitVec.ofNat 8 v)) }

/-- ENCODE's write of the code of symbol `k`: back to the read, or to the end of the command after the sentinel's code
(R280, R282, R283; R122; R158). -/
def encodeWrite (k : Fin 257) (s : State) : Host.Outcome State Fault Refusal :=
  andThen (outWrite (s.code[k.val]).len.val (s.code[k.val]).bits.toNat s) fun r =>
    match r.1 with
    | .fault c => .next (raise .portFaultOut c r.2)
    | .ok =>
      if k = sentinelIndex then .next { r.2 with phase := .close, pending := .top }
      else .next { r.2 with pending := .top }

/-- One step of ENCODE (R280). -/
def encodeStep (s : State) : Host.Outcome State Fault Refusal :=
  match s.pending with
  | .code k => encodeWrite k s
  | .top => encodeRead s
  | .symField => encodeRead s
  | .literal _ => encodeRead s

/-- The start of DECODE: CUR at the root (R285). -/
def startDecode (s : State) : State :=
  { s with phase := .decode, cur := s.root, pending := .top }

/-- The node a payload bit leads to: the current node's left child on 0, its right child on 1, and the node itself when
it is a leaf, which only a single-leaf root is (R285 to R287). -/
def nextNode (s : State) (bit : Bool) : NodeIdx :=
  if (s.nodeAt s.cur).isLeaf then s.cur
  else if bit then (s.nodeAt s.cur).r
  else (s.nodeAt s.cur).l

/-- What reaching node `i` leads to: deeper into the tree, the end of the command at the sentinel, BAD_SYMBOL above it,
and the write of a literal below it (R285, R288 to R290). -/
def reach (i : NodeIdx) (s : State) : State :=
  if (s.nodeAt i).isLeaf then
    if (s.nodeAt i).sym = sentinel then { s with phase := .close, pending := .top }
    else if (s.nodeAt i).sym.toNat > 256 then raise .badSymbol ((s.nodeAt i).sym.setWidth 32) s
    else { s with pending := .literal ((s.nodeAt i).sym.setWidth 8) }
  else { s with cur := i, pending := .top }

/-- DECODE's read of one bit (R285, R286, R291, R292). -/
def decodeRead (s : State) : Host.Outcome State Fault Refusal :=
  andThen (inRead 1 s) fun r =>
    match r.1 with
    | .fault c => .next (raise .portFaultIn c r.2)
    | .eoi => .next (raise .truncatedPayload 0#32 r.2)
    | .val v => .next (reach (nextNode r.2 (v != 0)) r.2)

/-- DECODE's write of a literal, then back to the root (R285, R289, R292). -/
def decodeWrite (b : Byte) (s : State) : Host.Outcome State Fault Refusal :=
  andThen (outWrite 8 b.toNat s) fun r =>
    match r.1 with
    | .fault c => .next (raise .portFaultOut c r.2)
    | .ok => .next { r.2 with cur := r.2.root, pending := .top }

/-- One step of DECODE (R285, R293). -/
def decodeStep (s : State) : Host.Outcome State Fault Refusal :=
  match s.pending with
  | .literal b => decodeWrite b s
  | .top => decodeRead s
  | .symField => decodeRead s
  | .code _ => decodeRead s

end Sys2Proof.Machine
end

