-- ==== Sys2Proof/Machine/HeaderCodec.lean ====
section
/-! DEFINITION. The Header Codec: WRITE_MAGIC, READ_MAGIC, and the meanings of the NODE and LEAF tokens in both
directions (44_header_codec.md). -/
namespace Sys2Proof.Machine

/-- The start of WRITE_HEADER: WH(ROOT) pending (R250). -/
def startWriteHeader (s : State) : State :=
  { s with
    phase := .wheader
    pending := .top
    hstack := [{ node := s.root, side := false }] }

/-- WRITE_MAGIC (R264). -/
def writeMagicStep (s : State) : Host.Outcome State Fault Refusal :=
  andThen (outWrite 32 s.magic.toNat s) fun r =>
    match r.1 with
    | .fault c => .next (raise .portFaultOut c r.2)
    | .ok => .next (startWriteHeader r.2)

/-- The start of READ_HEADER: an empty node store, RH() called (R254). -/
def startReadHeader (s : State) : State :=
  { s with phase := .rheader, pending := .top, nnodes := 0, hstack := [] }

/-- READ_MAGIC (R265, R311, R323). -/
def readMagicStep (s : State) : Host.Outcome State Fault Refusal :=
  andThen (inRead 32 s) fun r =>
    match r.1 with
    | .fault c => .next (raise .portFaultIn c r.2)
    | .eoi => .next (raise .badMagic 0#32 r.2)
    | .val v =>
      if BitVec.ofNat 32 v = r.2.magic then .next (startReadHeader r.2)
      else .next (raise .badMagic (BitVec.ofNat 32 v) r.2)

/-- A header frame for a node that is only to be visited. -/
def pendingNode (i : NodeIdx) : Frame :=
  { node := i, side := false }

/-- NODE, written: the flag 0, then the left subtree's tokens, then the right's (R251, R253). -/
def writeNodeToken (s : State) : Host.Outcome State Fault Refusal :=
  match s.hstack with
  | [] => .refused .tokenOutsideHeader
  | f :: rest =>
    andThen (outWrite 1 0 s) fun r =>
      match r.1 with
      | .fault c => .next (raise .portFaultOut c r.2)
      | .ok => .next { r.2 with
          hstack := pendingNode (s.nodeAt f.node).l :: pendingNode (s.nodeAt f.node).r :: rest }

/-- The end of a subtree's tokens: the next pending node, or REWIND when the last token is written (R250, R158). -/
def headerWritten (rest : List Frame) (s : State) : State :=
  { s with hstack := rest, pending := .top, phase := if rest.isEmpty then .rewind else .wheader }

/-- LEAF, written: the flag 1, and in the next transaction the 9-bit symbol (R252, R253). -/
def writeLeafToken (sym : Symbol) (s : State) : Host.Outcome State Fault Refusal :=
  match s.hstack with
  | [] => .refused .tokenOutsideHeader
  | _ :: rest =>
    if s.pending = .symField then
      andThen (outWrite 9 sym.toNat s) fun r =>
        match r.1 with
        | .fault c => .next (raise .portFaultOut c r.2)
        | .ok => .next (headerWritten rest r.2)
    else
      andThen (outWrite 1 1 s) fun r =>
        match r.1 with
        | .fault c => .next (raise .portFaultOut c r.2)
        | .ok => .next { r.2 with pending := .symField }

/-- RH() returns node `i` to its caller: the root when no node waits, the left child of a node whose right subtree is
then read, or the right child of a node that is complete with it (R254). -/
def deliver (i : NodeIdx) : List Frame → State → State
  | [], s => startDecode { s with root := i, hstack := [] }
  | f :: rest, s =>
    if f.side then deliver f.node rest (s.setNode f.node { s.nodeAt f.node with r := i })
    else { s.setNode f.node { s.nodeAt f.node with l := i } with
      hstack := { f with side := true } :: rest, pending := .top }

/-- NODE, read: the internal node is allocated at its flag, with W 0 and SYM 0, and its left subtree is read next
(R254, R255, R257, R261). -/
def readNodeToken (s : State) : Host.Outcome State Fault Refusal :=
  match alloc s with
  | none => .next (raise .nodeOverflow 0#32 s)
  | some (i, t) =>
    .next { t.setNode i { t.nodeAt i with isLeaf := false, sym := 0#9, w := 0 } with
      hstack := pendingNode i :: t.hstack, pending := .top }

/-- LEAF, read: the leaf is allocated after its 9 bits are read, with W 0, and returned (R254, R256, R257, R261). -/
def readLeafToken (sym : Symbol) (s : State) : Host.Outcome State Fault Refusal :=
  match alloc s with
  | none => .next (raise .nodeOverflow 0#32 s)
  | some (i, t) => .next (deliver i t.hstack (t.setLeaf i sym 0))

/-- NODE (R251, R255): written in WHEADER, read in RHEADER, where its flag has just been read. -/
def execNode (s : State) : Host.Outcome State Fault Refusal :=
  match s.phase with
  | .wheader => writeNodeToken s
  | .rheader => readNodeToken s
  | .idle | .count | .build | .gencodes | .wmagic | .rewind | .encode | .rmagic | .decode | .close =>
    .refused .tokenOutsideHeader

/-- LEAF (R252, R256): written in WHEADER, read in RHEADER, where its 9-bit symbol has just been read. -/
def execLeaf (sym : Symbol) (s : State) : Host.Outcome State Fault Refusal :=
  match s.phase with
  | .wheader => writeLeafToken sym s
  | .rheader => readLeafToken sym s
  | .idle | .count | .build | .gencodes | .wmagic | .rewind | .encode | .rmagic | .decode | .close =>
    .refused .tokenOutsideHeader

end Sys2Proof.Machine
end

