-- ==== Sys2Proof/Machine/Commands.lean ====
section
/-! DEFINITION. The commands: acceptance (40_commands.md R150, R151), the meanings of the three command rows, and the
completion step (R157). The phases a command runs through are the steps of Machine/Sequencer.lean. -/
namespace Sys2Proof.Machine

/-- Acceptance of a command word (R150): STATUS and ERRINFO. The output of a command is exactly the bits it writes, so OB is
empty from here on (R76, R356; log 16). -/
def accept (op : Op) (s : State) : State :=
  { s with
    status := Status.accepted
    errinfo := 0#32
    op := op
    out := { s.out with ob := [] }
    trace := [] }

/-- The input port's cursor stands at the first bit of the source, where COMPRESS must find it (R354). -/
def InPort.atStart (p : InPort) : Bool :=
  p.ic == 0

/-- A launch of a command that uses the streams: nothing happens while another runs (R151), and a launch is refused whose
output feeds its input (R364), whose input cursor is not placed where the command must find it (X27), or whose output is
not open (R356, X27). -/
def launch (op : Op) (placed : Bool) (start : State → State) (s : State) : Host.Outcome State Fault Refusal :=
  if s.status.busy then .next s
  else if s.aliased then .refused .streamsAliased
  else if !placed then .refused .cursorNotAtStart
  else if s.out.oc then .refused .outputNotOpen
  else .next (start (accept op s))

/-- COMPRESS (R150, R152): accepted, with PHASE at the start of COUNT; COUNT, BUILD, GENCODES, WMAGIC, WHEADER, REWIND,
ENCODE and COMPLETE are the steps that follow. A source whose cursor is not at its first bit is refused (R354, X27). -/
def execCompress (s : State) : Host.Outcome State Fault Refusal :=
  launch .compress s.inp.atStart startCount s

/-- The start of READ_MAGIC (R154). -/
def startReadMagic (s : State) : State :=
  { s with phase := .rmagic, pending := .top }

/-- DECOMPRESS (R150, R154): accepted, with PHASE at RMAGIC; READ_MAGIC, READ_HEADER, DECODE and COMPLETE are the steps
that follow. It reads from the port's current cursor, wherever in the source that stands (R154). DESIGN CHOICE (log 32): the
bit at the cursor counts as the artifact's first bit (R355), so no cursor is refused. -/
def execDecompress (s : State) : Host.Outcome State Fault Refusal :=
  launch .decompress true startReadMagic s

/-- ILLEGAL(w) (R156, R321): accepted and completed at once with ILLEGAL_COMMAND; no port transaction and no OutClose, so
both streams stay as they are. -/
def execIllegal (_w : Word) (s : State) : Host.Outcome State Fault Refusal :=
  if s.status.busy then .next s
  else .next { s with
    status := (Status.accepted.withError .illegalCommand).completed
    errinfo := 0#32
    op := .noOp
    phase := .idle
    pending := .top
    trace := [] }

/-- COMPLETE (R157): OutClose, and the end of the command once it has answered. -/
def closeStep (s : State) : Host.Outcome State Fault Refusal :=
  andThen (outClose s) fun r => .next (complete r.1 r.2)

end Sys2Proof.Machine
end

