-- ==== Sys2Proof/Machine/Dispatch.lean ====
section
/-! DEFINITION. One arm per instruction. -/
namespace Sys2Proof.Machine

def exec (i : Instr) (s : State) : Host.Outcome State Fault Refusal :=
  match i with
  | .compress => Sys2Proof.Machine.execCompress s
  | .decompress => Sys2Proof.Machine.execDecompress s
  | .illegal w => Sys2Proof.Machine.execIllegal w s
  | .node => Sys2Proof.Machine.execNode s
  | .leaf sym => Sys2Proof.Machine.execLeaf sym s

end Sys2Proof.Machine
end

