-- ==== Sys2Proof/Machine/HostWindow.lean ====
section
/-! DEFINITION. The host's turns: the register window (10_state.md R32 to R38), the reset event (70_reset_and_hazards.md
R350, R351), and the host's and the platform's use of the ports (R354 to R357, R360, R364). -/
namespace Sys2Proof.Machine

/-- A host read of the register window (R32 to R38): CMD reads 0, and no read has a side effect but the value returned to
the host. -/
def regRead (offset bytes : Nat) (s : State) : Host.Outcome State Fault Refusal :=
  if bytes = 4 ∧ offset = 0x0 then .next { s with hostData := 0#32 }
  else if bytes = 4 ∧ offset = 0x4 then .next { s with hostData := s.status.word }
  else if bytes = 4 ∧ offset = 0x8 then .next { s with hostData := s.errinfo }
  else if bytes = 4 ∧ offset = 0xC then .next { s with hostData := s.magic }
  else .refused .badRegisterAccess

/-- A host write of the register window (R32 to R38, R111): a write of CMD runs the command its word selects, writes of
the read-only registers are ignored. -/
def regWrite (offset bytes : Nat) (w : Word) (s : State) : Host.Outcome State Fault Refusal :=
  if bytes = 4 ∧ offset = 0x0 then exec (decodeCommand w) s
  else if bytes = 4 ∧ (offset = 0x4 ∨ offset = 0x8 ∨ offset = 0xC) then .next s
  else .refused .badRegisterAccess

/-- A use of a port by the host, with its outcome on an idle core: it is outside the contract while the core is busy
(R360, X27). -/
def portUse (idle : Host.Outcome State Fault Refusal) (s : State) : Host.Outcome State Fault Refusal :=
  if s.status.busy then .refused .portInUse else idle

/-- The host's own `InRead(n)` (R72 to R74; log 33): the value goes to the host, and EOI is no value. -/
def hostRead (n : Nat) (s : State) : Host.Outcome State Fault Refusal :=
  if ¬ (n = 1 ∨ n = 8 ∨ n = 9 ∨ n = 32) then .refused .badPortAccess
  else if s.inp.exhausted n then .next { s with inp := s.inp.afterEoi s.freeIdx, freeIdx := s.freeIdx + 1 }
  else .next { s with inp := { s.inp with ic := s.inp.ic + n }, hostData := BitVec.ofNat 32 (s.inp.field n) }

/-- The host's own `OutWrite(n, v)` (R77; log 33). -/
def hostWrite (n v : Nat) (s : State) : Host.Outcome State Fault Refusal :=
  if n = 0 ∨ 256 < n ∨ 2 ^ n ≤ v then .refused .badPortAccess
  else if s.out.oc then .refused .outputNotOpen
  else .next { s with out := { s.out with ob := s.out.ob ++ bin n v } }

/-- One turn of the host or the platform (log 29). Its uses of the ports are those R360 names: read, write, rewind and close,
beside presenting a source and opening an output. -/
def hostStep (e : HostEvent) (s : State) : Host.Outcome State Fault Refusal :=
  match e with
  | .regRead offset bytes => regRead offset bytes s
  | .regWrite offset bytes w => regWrite offset bytes w s
  | .reset inp out => .next (coreReset inp out s)
  | .connect src cursor aliased =>
    portUse (.next { s with inp := InPort.clipped { src := src, ic := cursor, eoi := false }, aliased := aliased }) s
  | .openOutput => portUse (.next { s with out := { ob := [], oc := false, sink := [] } }) s
  | .closeOutput => portUse (.next { s with out := s.out.closed }) s
  | .portRead n => portUse (hostRead n s) s
  | .portRewind => portUse (.next { s with inp := { s.inp with ic := 0, eoi := false } }) s
  | .portWrite n v => portUse (hostWrite n v s) s
  | .sourceChange src => .next { s with inp := InPort.clipped { s.inp with src := src } }

end Sys2Proof.Machine
end

