-- ==== Sys2Proof/Machine/Sequencer.lean ====
section
/-! DEFINITION. The sequencer (40_commands.md R158): one step of the core is one port transaction with the computation that
follows it up to the next (00_scope.md R12). -/
namespace Sys2Proof.Machine

/-- One step of WRITE_HEADER: the token of the pending node (R250). -/
def writeHeaderStep (s : State) : Host.Outcome State Fault Refusal :=
  match s.hstack with
  | [] => .next (headerWritten [] s.turn)
  | f :: _ => exec (s.nodeAt f.node).token s

/-- Runs the header token whose bits have been read; a LEAF flag alone is not a whole token, and its symbol field is
read next (R125, R254). -/
def runToken (bits : List Bool) (s : State) : Host.Outcome State Fault Refusal :=
  match decode .hdr bits with
  | .ok (i, _) => exec i s
  | .error _ => .next { s with pending := .symField }

/-- READ_HEADER's read of a flag (R254, R258, R259). -/
def readFlag (s : State) : Host.Outcome State Fault Refusal :=
  andThen (inRead 1 s) fun r =>
    match r.1 with
    | .fault c => .next (raise .portFaultIn c r.2)
    | .eoi => .next (raise .truncatedHeader 0#32 r.2)
    | .val v => runToken (bin 1 v) r.2

/-- READ_HEADER's read of the 9-bit symbol after a LEAF flag (R254, R258, R259). -/
def readSymbol (s : State) : Host.Outcome State Fault Refusal :=
  andThen (inRead 9 s) fun r =>
    match r.1 with
    | .fault c => .next (raise .portFaultIn c r.2)
    | .eoi => .next (raise .truncatedHeader 0#32 r.2)
    | .val v => runToken (true :: bin 9 v) r.2

/-- One step of READ_HEADER (R254). -/
def readHeaderStep (s : State) : Host.Outcome State Fault Refusal :=
  match s.pending with
  | .symField => readSymbol s
  | .top => readFlag s
  | .code _ => readFlag s
  | .literal _ => readFlag s

/-- One step of the core (R12, R158). An idle core waits for a CMD write and lets its turn pass (log 7). No run rests in
BUILD or GENCODES, which COUNT's EOI step runs whole; a state that does goes on with the rest of them (log 11). -/
def coreStep (s : State) : Host.Outcome State Fault Refusal :=
  match s.phase with
  | .idle => .next s.turn
  | .count => countStep s
  | .build => andThen (mergeAll s.q.length s.turn) gencodes
  | .gencodes => gencodes s.turn
  | .wmagic => writeMagicStep s
  | .wheader => writeHeaderStep s
  | .rewind => rewindStep s
  | .encode => encodeStep s
  | .rmagic => readMagicStep s
  | .rheader => readHeaderStep s
  | .decode => decodeStep s
  | .close => closeStep s

end Sys2Proof.Machine
end

