-- ==== Sys2Proof/Machine/Step.lean ====
section
/-! DEFINITION. One step of the machine, and how the host places an instruction where the next step fetches it. -/
namespace Sys2Proof.Machine

/-- One step: the host's turn if the head of `inputs` is one, else the core's (R11, R12; log 7). -/
def step (s : State) : Host.Outcome State Fault Refusal :=
  match s.inputs with
  | .host e :: rest => hostStep e { s with inputs := rest }
  | .core _ :: _ => coreStep s
  | [] => coreStep s

/-- Whether a table word is a LEAF token, whose symbol field the step that runs it reads (R254, R256). -/
def fetchesSymbol (nbits w : Nat) : Bool :=
  match decodeTableWord nbits w with
  | some (.leaf _) => true
  | _ => false

/-- `s` with a table word placed where the next step fetches it (log 26). A command word is fetched from a host write to
CMD, so that write becomes the next turn. A header token is fetched from the input stream in PHASE RHEADER of a running
DECOMPRESS: the token becomes the source, with the cursor at the bits the next step reads, which are a NODE's flag,
and the 9 symbol bits after a LEAF's flag. -/
def State.withFetchWord (s : State) (nbits w : Nat) : State :=
  if nbits ≤ 16 then
    { s with
      status := Status.accepted
      op := .decompress
      phase := .rheader
      pending := if fetchesSymbol nbits w then .symField else .top
      inp := { src := bytesOf (padded (tableBits nbits w)), ic := if fetchesSymbol nbits w then 1 else 0, eoi := false }
      inputs := .core .serve :: s.inputs }
  else
    { s with inputs := .host (.regWrite 0x0 4 (BitVec.ofNat 32 w)) :: s.inputs }

end Sys2Proof.Machine
end

