-- ==== Sys2Proof/Safety.lean ====
section
/-! DEFINITION. What the claims speak of: whose turn it is, runs, the machine's invariant, the edges of the sequencer, and
the trees, headers and code tables of the spec (00_scope.md R17; 30_encoding.md R116, R121; 43_code_table.md). -/
namespace Sys2Proof.Machine

/-- The next turn is the core's. -/
def State.coreTurn (s : State) : Bool :=
  match s.inputs with
  | .host _ :: _ => false
  | .core _ :: _ => true
  | [] => true

/-- The next turn is the host's event `e`, and `rest` are the turns after it. -/
def State.hostTurn (s : State) (e : HostEvent) (rest : List Input) : Prop :=
  s.inputs = .host e :: rest

/-- The next turn is the core's, and its port answers as the contract says. -/
def State.served (s : State) : Bool :=
  s.coreTurn && decide (s.draw = .serve)

/-- Every turn to come is the core's, and its port answers as the contract says. -/
def State.allServed (s : State) : Prop :=
  ∀ x ∈ s.inputs, x = .core .serve

/-- The next transaction is on the input port (R82: COUNT, REWIND, RMAGIC, RHEADER, and the reads of ENCODE and DECODE). -/
def State.readsNext (s : State) : Bool :=
  match s.phase, s.pending with
  | .count, _ | .rewind, _ | .rmagic, _ | .rheader, _ => true
  | .encode, .top | .decode, .top => true
  | _, _ => false

/-- The next transaction is an OutWrite (R82: WMAGIC, WHEADER, and the writes of ENCODE and DECODE). -/
def State.writesNext (s : State) : Bool :=
  match s.phase, s.pending with
  | .wmagic, _ => true
  | .wheader, _ => !s.hstack.isEmpty
  | .encode, .code k => (s.code[k.val]).len != 0
  | .decode, .literal _ => true
  | _, _ => false

/-- The state once `InRead(n)` has returned the next field (R72). -/
def State.afterRead (n : Nat) (s : State) : State :=
  { s.turn.record (.inRead n (.val (s.inp.field n))) with inp := { s.inp with ic := s.inp.ic + n } }

/-- The state once `InRead(n)` has returned EOI (R73). -/
def State.afterEoi (n : Nat) (s : State) : State :=
  { s.turn.record (.inRead n .eoi) with inp := s.inp.afterEoi s.freeIdx, freeIdx := s.freeIdx + 1 }

/-- The state once `OutWrite(n, v)` has returned OK (R77). -/
def State.afterWrite (n v : Nat) (s : State) : State :=
  { s.turn.record (.outWrite n v .ok) with out := { s.out with ob := s.out.ob ++ bin n v } }

/-- `k` steps of the machine, stopping at the first fault or refusal. -/
def runs : Nat → State → Host.Outcome State Fault Refusal
  | 0, s => .next s
  | k + 1, s => andThen (step s) (runs k)

/-- Some number of steps leads from `s` to `t`. -/
def Reaches (s t : State) : Prop :=
  ∃ k, runs k s = .next t

/-- One or more steps lead from `s` to `t`. -/
def Leads (s t : State) : Prop :=
  ∃ k, runs (k + 1) s = .next t

/-- The command a phase belongs to (R158); CLOSE belongs to both. -/
def Phase.servesOp : Phase → Op → Bool
  | .idle, .noOp => true
  | .close, .compress | .close, .decompress => true
  | .count, .compress | .build, .compress | .gencodes, .compress | .wmagic, .compress => true
  | .wheader, .compress | .rewind, .compress | .encode, .compress => true
  | .rmagic, .decompress | .rheader, .decompress | .decode, .decompress => true
  | _, _ => false

/-- The phases in which a transaction other than the top of the loop can be next. -/
def Pending.fits : Pending → Phase → Bool
  | .top, _ => true
  | .symField, .wheader | .symField, .rheader => true
  | .code _, .encode => true
  | .literal _, .decode => true
  | _, _ => false

/-- The edges of the sequencer (R158), reset aside. -/
def Phase.edge : Phase → Phase → Bool
  | .idle, .count | .idle, .rmagic | .idle, .idle => true
  | .count, .build | .build, .gencodes | .gencodes, .wmagic | .wmagic, .wheader => true
  | .wheader, .rewind | .rewind, .encode | .encode, .close => true
  | .rmagic, .rheader | .rheader, .decode | .decode, .close => true
  | .count, .close | .build, .close | .gencodes, .close | .wmagic, .close | .wheader, .close => true
  | .rewind, .close | .rmagic, .close | .rheader, .close => true
  | .close, .idle => true
  | _, _ => false

/-- The error codes whose ERRINFO is 0 (R36, R310). -/
def ErrCode.hasNoInfo : ErrCode → Bool
  | .noError | .truncatedHeader | .truncatedPayload | .nodeOverflow | .countOverflow | .illegalCommand => true
  | .badMagic | .portFaultIn | .portFaultOut | .badSymbol | .noCode => false

/-- The invariant of the machine: what the spec says of every state a core can be in. -/
structure Inv (s : State) : Prop where
  /-- R8. -/
  wb_ge : 10 ≤ s.wb
  /-- `PHASE = IDLE` exactly when `STATUS.BUSY = 0` (R41). -/
  idle_iff : s.phase = .idle ↔ s.status.busy = false
  /-- BUSY and DONE are never both 1 (R35). -/
  not_busy_done : ¬ (s.status.busy = true ∧ s.status.done = true)
  /-- `STATUS.ERR = 1` exactly when `STATUS.ERRCODE != 0` (R34). -/
  err_iff : s.status.err = true ↔ s.status.errcode ≠ .noError
  /-- An error leaves only CLOSE to a running command (R320). -/
  error_closes : s.status.busy = true → s.status.errcode ≠ .noError → s.phase = .close
  /-- ERRINFO by ERRCODE (R36). -/
  no_info : s.status.errcode.hasNoInfo = true → s.errinfo = 0#32
  bad_symbol_info : s.status.errcode = .badSymbol → 257 ≤ s.errinfo.toNat ∧ s.errinfo.toNat ≤ 511
  no_code_info : s.status.errcode = .noCode → s.errinfo.toNat < 256
  /-- OP is the command whose phase is running (R39, R158). -/
  op_of_phase : s.phase.servesOp s.op = true
  pending_fits : s.pending.fits s.phase = true
  /-- BUILD and GENCODES run whole within a step (R12). -/
  no_rest : s.phase ≠ .build ∧ s.phase ≠ .gencodes
  /-- A running command's output is open, so no OutWrite follows OutClose (R77, R158, R356). -/
  output_open : s.status.busy = true → s.out.oc = false
  /-- `0 <= ic <= 8N` (R71). -/
  cursor_le : s.inp.ic ≤ s.inp.size
  /-- NNODES never exceeds NODE_CAP (R42). -/
  nnodes_le : s.nnodes ≤ 513
  /-- Q is empty outside BUILD: DESIGN CHOICE (log 19), R47 leaves it unspecified there. -/
  queue_empty : s.q = []
  /-- The counts sum to TOTAL (R186). -/
  count_sum : s.phase = .count → s.freq.toList.sum = s.total
  total_le : s.phase = .count → s.total ≤ 2 ^ s.wb - 2
  /-- Header reading has one pending entry per unfinished node, the newest on top (R49, R254). -/
  stack_descends : s.phase = .rheader → s.hstack.Pairwise (fun f g => g.node.val < f.node.val)
  stack_allocated : s.phase = .rheader → ∀ f ∈ s.hstack, f.node.val < s.nnodes

/-- The invariant of BUILD's loop, which runs within one step of the machine (R12). -/
structure Building (s : State) : Prop where
  /-- R8. -/
  wb_ge : 10 ≤ s.wb
  in_build : s.phase = .build
  /-- Q is a set, in insertion order, of allocated nodes (R47, R203, R206), and is never empty (R203). -/
  queue_ascends : s.q.Pairwise (fun i j => i.val < j.val)
  queue_allocated : ∀ i ∈ s.q, i.val < s.nnodes
  queue_nonempty : s.q ≠ []
  /-- There is room for the merges to come (R207, R211). -/
  room : s.nnodes + s.q.length ≤ 514
  /-- The weights in Q sum to the counts and the sentinel's weight 1 (R186, R209). -/
  weight_sum : (s.q.map (fun i => (s.nodeAt i).w)).sum = s.total + 1
  total_le : s.total ≤ 2 ^ s.wb - 2

/-- A tree (R17): "left" is the child reached by bit 0, "right" the child reached by bit 1. -/
inductive Tree where
  | leaf (sym : Symbol) (w : Nat)
  | node (w : Nat) (l r : Tree)
  deriving DecidableEq, Repr

/-- The weight at the root of a tree (R17). -/
def Tree.weight : Tree → Nat
  | .leaf _ w => w
  | .node w _ _ => w

/-- The number of nodes of a tree. -/
def Tree.size : Tree → Nat
  | .leaf _ _ => 1
  | .node _ l r => 1 + l.size + r.size

/-- The leaf symbols of a tree, left to right. -/
def Tree.symbols : Tree → List Symbol
  | .leaf sym _ => [sym]
  | .node _ l r => l.symbols ++ r.symbols

/-- The leaves of a tree, left to right, with their weights. -/
def Tree.leaves : Tree → List (Symbol × Nat)
  | .leaf sym w => [(sym, w)]
  | .node _ l r => l.leaves ++ r.leaves

/-- Every internal node's weight is the sum of its children's (R209). -/
def Tree.sums : Tree → Bool
  | .leaf _ _ => true
  | .node w l r => (w == l.weight + r.weight) && l.sums && r.sums

/-- The tree with every weight 0, as a header gives it back (R256, R261). -/
def Tree.unweighted : Tree → Tree
  | .leaf sym _ => .leaf sym 0
  | .node _ l r => .node 0 l.unweighted r.unweighted

/-- `H(T)`, the preorder serialization (R116). -/
def Tree.header : Tree → List Bool
  | .leaf sym _ => encode (.leaf sym)
  | .node _ l r => encode .node ++ l.header ++ r.header

/-- The leaves of a tree with their paths from its root (R232). -/
def Tree.paths : Tree → List (Symbol × List Bool)
  | .leaf sym _ => [(sym, [])]
  | .node _ l r => l.paths.map (fun x => (x.1, false :: x.2)) ++ r.paths.map (fun x => (x.1, true :: x.2))

/-- The code table of a tree: its paths, and the code `"0"` for a single-leaf tree (R232, R233). -/
def Tree.codes : Tree → List (Symbol × List Bool)
  | .leaf sym _ => [(sym, [false])]
  | .node w l r => (Tree.node w l r).paths

/-- The node store holds the tree at an index (R17, R45). -/
def Holds (store : Vector NodeEntry 513) : NodeIdx → Tree → Prop
  | i, .leaf sym w => (store[i.val]).isLeaf = true ∧ (store[i.val]).sym = sym ∧ (store[i.val]).w = w
  | i, .node w l r => (store[i.val]).isLeaf = false ∧ (store[i.val]).w = w ∧
      Holds store (store[i.val]).l l ∧ Holds store (store[i.val]).r r

/-- CODE holds exactly the codes of a list: LEN and BITS give each listed code, every other symbol has LEN 0 (R48, R230). -/
def CodesAre (table : Vector CodeEntry 257) (codes : List (Symbol × List Bool)) : Prop :=
  (∀ k : Fin 257, ∀ p, (BitVec.ofNat 9 k.val, p) ∈ codes → (table[k.val]).bitString = p) ∧
  (∀ k : Fin 257, (∀ p, (BitVec.ofNat 9 k.val, p) ∉ codes) → (table[k.val]).len = 0)

/-- `P`, the payload of a byte sequence under a code table (R121). -/
def payload (table : Vector CodeEntry 257) (src : List Byte) : List Bool :=
  src.flatMap (fun b => (table[(byteIndex b).val]).bitString) ++ (table[sentinelIndex.val]).bitString

/-- The symbols of a source's tree: the byte values that occur in it, and the sentinel (R202, R203, R210). -/
def sourceSymbols (src : List Byte) : List Symbol :=
  (src.dedup.map (fun b => b.setWidth 9)) ++ [sentinel]

/-- The leaves of a source's tree with their weights: how often each byte value occurs, and 1 for the sentinel (R202,
R203). -/
def sourceLeaves (src : List Byte) : List (Symbol × Nat) :=
  (src.dedup.map (fun b => (b.setWidth 9, src.count b))) ++ [(sentinel, 1)]

/-- The leaves that counts give, in the order BUILD allocates them: the byte values with a positive count, ascending, then
the sentinel with weight 1 (R202, R203). -/
def countedLeaves (freq : Vector Nat 256) : List (Symbol × Nat) :=
  ((List.finRange 256).filter (fun b => freq[b.val] > 0)).map (fun b => (BitVec.ofNat 9 b.val, freq[b.val]))
    ++ [(sentinel, 1)]

/-- What an observer of the window and the ports sees of a state. -/
structure View where
  status : Status
  errinfo : Word
  hostData : Word
  inp : InPort
  out : OutPort
  trace : List Transaction
  deriving DecidableEq, Repr

/-- The observer's view of a state. -/
def State.view (s : State) : View :=
  { status := s.status, errinfo := s.errinfo, hostData := s.hostData, inp := s.inp, out := s.out, trace := s.trace }

/-- The observer's view of an outcome. -/
def outcomeView : Host.Outcome State Fault Refusal → Host.Outcome View Fault Refusal
  | .next s => .next s.view
  | .fault r => .fault r
  | .refused r => .refused r

/-- An idle machine with distinct streams, an open output, and a command word about to be written, after which every turn is
the core's and every transaction is answered as the contract says (R353, R356, R364). The input's cursor may stand
anywhere. -/
structure Ready (s : State) (w : Word) : Prop where
  inv : Inv s
  idle : s.phase = .idle
  opened : s.out.oc = false
  distinct : s.aliased = false
  write : ∃ rest, s.inputs = .host (.regWrite 0x0 4 w) :: rest ∧ ∀ x ∈ rest, x = .core .serve

/-- A ready machine with a whole source presented at its first bit (R354). -/
structure Launch (s : State) (w : Word) (src : List Byte) : Prop extends Ready s w where
  source : s.inp = { src := src, ic := 0, eoi := false }

end Sys2Proof.Machine
end

