-- ==== Sys2Proof/Certificates/Slice0/Obligations.lean ====
section
/-! DEFINITION. The statements for the provers. Each docstring names the rule of spec/ it formalises, and the log entry of
any clause that is the model's own choice. -/
open Sys2Proof Sys2Proof.Machine

/-! ### Reset and the register window -/

/-- R54: what reset leaves, of the state R54 gives a value. A read of CMD returns 0. -/
def Obligations.ResetHoldsTheStatedValues : Prop :=
  State.reset.status.word = 0#32 ∧ State.reset.errinfo = 0#32 ∧ State.reset.magic = Config.MAGIC ∧
    State.reset.op.number = 0#2 ∧ State.reset.phase = .idle ∧ State.reset.phase.number = 0#4 ∧
    ∀ rest, step { State.reset with inputs := .host (.regRead 0x0 4) :: rest } =
      .next { State.reset with inputs := rest, hostData := 0#32 }

/-- R350, R351: the reset event, from every state, busy or not: the stated reset values, MAGIC unchanged, no port transaction
and not even OutClose, and the next CMD write is accepted when the streams are as R354, R356 and R364 ask. The streams
after a reset while busy are an input of the model (log 24); an idle core's reset touches no port (N6). -/
def Obligations.ResetEventGivesTheResetState : Prop :=
  ∀ (s : State) (inp : InPort) (out : OutPort) (rest : List Input),
    s.hostTurn (.reset inp out) rest →
    ∃ t, step s = .next t ∧ t.status.word = 0#32 ∧ t.errinfo = 0#32 ∧ t.op = .noOp ∧ t.phase = .idle ∧
      t.magic = s.magic ∧ t.wb = s.wb ∧ t.inputs = rest ∧ t.trace = [] ∧
      (s.status.busy = false → t.inp = s.inp ∧ t.out = s.out) ∧
      (s.status.busy = true → t.inp = inp.clipped ∧ t.out = out) ∧
      (s.aliased = false → t.out.oc = false →
        ∀ w, (w = 1#32 → t.inp.ic = 0) → ∃ u, step { t with inputs := .host (.regWrite 0x0 4 w) :: rest } = .next u ∧
          (u.status.busy = true ∨ u.status.done = true))

/-- R33, R34, R36, R37: each register read returns its register and changes nothing else; writes of the read-only
registers are ignored. -/
def Obligations.RegisterWindowReadsAndIgnoredWrites : Prop :=
  ∀ (s : State) (w : Word) (rest : List Input),
    (s.hostTurn (.regRead 0x0 4) rest → step s = .next { s with inputs := rest, hostData := 0#32 }) ∧
    (s.hostTurn (.regRead 0x4 4) rest → step s = .next { s with inputs := rest, hostData := s.status.word }) ∧
    (s.hostTurn (.regRead 0x8 4) rest → step s = .next { s with inputs := rest, hostData := s.errinfo }) ∧
    (s.hostTurn (.regRead 0xC 4) rest → step s = .next { s with inputs := rest, hostData := s.magic }) ∧
    (s.hostTurn (.regWrite 0x4 4 w) rest → step s = .next { s with inputs := rest }) ∧
    (s.hostTurn (.regWrite 0x8 4 w) rest → step s = .next { s with inputs := rest }) ∧
    (s.hostTurn (.regWrite 0xC 4 w) rest → step s = .next { s with inputs := rest })

/-- R38: a register read has no side effect (the value goes to the host), and every other access is refused. -/
def Obligations.OtherRegisterAccessesAreRefused : Prop :=
  ∀ (s : State) (offset bytes : Nat) (w : Word) (rest : List Input),
    ((bytes = 4 ∧ (offset = 0x0 ∨ offset = 0x4 ∨ offset = 0x8 ∨ offset = 0xC)) →
      s.hostTurn (.regRead offset bytes) rest → ∃ v, step s = .next { s with inputs := rest, hostData := v }) ∧
    (¬ (bytes = 4 ∧ (offset = 0x0 ∨ offset = 0x4 ∨ offset = 0x8 ∨ offset = 0xC)) →
      (s.hostTurn (.regRead offset bytes) rest → step s = .refused .badRegisterAccess) ∧
      (s.hostTurn (.regWrite offset bytes w) rest → step s = .refused .badRegisterAccess))

/-- R34: the fields of the STATUS word, its reserved bits, and the legal values of ERRCODE. -/
def Obligations.StatusWordHasTheStatedFields : Prop :=
  ∀ st : Status,
    st.word.getLsbD 0 = st.busy ∧ st.word.getLsbD 1 = st.done ∧ st.word.getLsbD 2 = st.err ∧
    st.word.extractLsb' 3 5 = 0#5 ∧ st.word.extractLsb' 8 4 = st.errcode.number ∧
    st.word.extractLsb' 12 20 = 0#20 ∧ st.errcode.number.toNat ≤ 10

/-! ### Commands -/

/-- R151: a write of CMD while busy has no effect, whatever the word; and a running command is stopped by nothing but its
own completion or a reset. -/
def Obligations.CommandWhileBusyIsLost : Prop :=
  (∀ (s : State) (w : Word) (rest : List Input), s.hostTurn (.regWrite 0x0 4 w) rest → s.status.busy = true →
    exec (decodeCommand w) { s with inputs := rest } = .next { s with inputs := rest } ∧
    step s = .next { s with inputs := rest }) ∧
  (∀ s t : State, Inv s → s.status.busy = true → step s = .next t → t.status.busy = false →
    (s.phase = .close ∧ s.coreTurn = true) ∨ ∃ inp out rest, s.hostTurn (.reset inp out) rest)

/-- R150, R152, R180, R181 (COUNT's start), and log 16 (OB is empty from the acceptance on; the trace is the model's own):
COMPRESS on an idle core with distinct streams, the cursor at the first bit and an open output (R354, R356, R364), the whole
next state. After an EOI too the cursor alone decides (log 14). -/
def Obligations.CompressIsAccepted : Prop :=
  ∀ s : State, s.status.busy = false → s.aliased = false → s.inp.ic = 0 → s.out.oc = false →
    exec .compress s = .next { s with
      status := { busy := true, done := false, err := false, errcode := .noError }
      errinfo := 0#32
      op := .compress
      phase := .count
      pending := .top
      freq := Vector.replicate 256 0
      total := 0
      out := { s.out with ob := [] }
      trace := [] }

/-- R150, R154, and log 16: DECOMPRESS on an idle core with distinct streams and an open output (R356, R364), the whole next
state. It starts at the port's current cursor, wherever that stands, and the bit there counts as the artifact's first (R355):
the model's choice, log 32. -/
def Obligations.DecompressIsAccepted : Prop :=
  ∀ s : State, s.status.busy = false → s.aliased = false → s.out.oc = false →
    exec .decompress s = .next { s with
      status := { busy := true, done := false, err := false, errcode := .noError }
      errinfo := 0#32
      op := .decompress
      phase := .rmagic
      pending := .top
      out := { s.out with ob := [] }
      trace := [] }

/-- R156: an illegal word on an idle core, with its frame. `pending` and `trace` are the model's own fields. That the internal
memories are as they were after this error is the model's choice (log 19): R324 leaves them unspecified. -/
def Obligations.IllegalWordCompletesAtOnce : Prop :=
  ∀ (s : State) (w : Word), w ≠ 1#32 → w ≠ 2#32 → s.status.busy = false →
    ∃ t, exec (.illegal w) s = .next t ∧ t.status.word = 0xA06#32 ∧ t.status.errcode = .illegalCommand ∧
      t.status.err = true ∧ t.status.busy = false ∧ t.status.done = true ∧
      t.errinfo = 0#32 ∧ t.phase = .idle ∧ t.op = .noOp ∧
      t.trace = [] ∧ t.inp = s.inp ∧ t.out = s.out ∧
      t = { s with status := t.status, errinfo := t.errinfo, op := t.op, phase := t.phase,
                   pending := t.pending, trace := t.trace }

/-- R354, R356, R360, R364, X27: what the host may not do with the ports is refused: a launch on aliased streams, a COMPRESS
with the cursor not at the source's first bit, a launch with an output that is not open, and, while BUSY, a host's own read,
write, rewind or close of a port, or a new source or output. On an idle core the host presents a source and opens and closes
an output, it reads, rewinds and writes as R72 to R77 have a port answer, and a source may change at any time (R357).
The model's choices: the end-of-input condition refuses no launch (log 14), a second closing leaves the output (log 15), a
changed source keeps the cursor (log 18), the other host events on an idle core (log 29), the widths a host may read and
write and where the value goes (log 33). -/
def Obligations.HostDutiesAtThePorts : Prop :=
  (∀ s : State, s.status.busy = false →
    (s.aliased = true →
      exec .compress s = .refused .streamsAliased ∧ exec .decompress s = .refused .streamsAliased) ∧
    (s.aliased = false → s.inp.ic ≠ 0 → exec .compress s = .refused .cursorNotAtStart) ∧
    (s.aliased = false → s.inp.ic = 0 → s.out.oc = true → exec .compress s = .refused .outputNotOpen) ∧
    (s.aliased = false → s.out.oc = true → exec .decompress s = .refused .outputNotOpen)) ∧
  (∀ (s : State) (src : List Byte) (cursor n v : Nat) (aliased : Bool) (rest : List Input),
    (s.status.busy = true →
      (s.hostTurn (.connect src cursor aliased) rest → step s = .refused .portInUse) ∧
      (s.hostTurn .openOutput rest → step s = .refused .portInUse) ∧
      (s.hostTurn .closeOutput rest → step s = .refused .portInUse) ∧
      (s.hostTurn (.portRead n) rest → step s = .refused .portInUse) ∧
      (s.hostTurn .portRewind rest → step s = .refused .portInUse) ∧
      (s.hostTurn (.portWrite n v) rest → step s = .refused .portInUse)) ∧
    (s.status.busy = false →
      (s.hostTurn (.connect src cursor aliased) rest → step s = .next { s with
        inp := { src := src, ic := min cursor (8 * src.length), eoi := false }, aliased := aliased, inputs := rest }) ∧
      (s.hostTurn .openOutput rest → step s = .next { s with
        out := { ob := [], oc := false, sink := [] }, inputs := rest }) ∧
      (s.hostTurn .closeOutput rest → ∃ t, step s = .next t ∧ t.out.oc = true ∧ (s.out.oc = true → t.out = s.out) ∧
        (s.out.oc = false → t.out.ob = padded s.out.ob ∧ bitsOf t.out.sink = t.out.ob) ∧
        t = { s with out := t.out, inputs := rest }) ∧
      (s.hostTurn .portRewind rest → step s = .next { s with
        inp := { src := s.inp.src, ic := 0, eoi := false }, inputs := rest }) ∧
      (s.hostTurn (.portRead n) rest →
        (¬ (n = 1 ∨ n = 8 ∨ n = 9 ∨ n = 32) → step s = .refused .badPortAccess) ∧
        ((n = 1 ∨ n = 8 ∨ n = 9 ∨ n = 32) → s.inp.exhausted n = false → step s = .next { s with
          inp := { s.inp with ic := s.inp.ic + n }, hostData := BitVec.ofNat 32 (s.inp.field n), inputs := rest }) ∧
        ((n = 1 ∨ n = 8 ∨ n = 9 ∨ n = 32) → s.inp.exhausted n = true →
          ∃ c, c ≤ s.inp.size ∧ step s = .next { s with
            inp := { src := s.inp.src, ic := c, eoi := true }, freeIdx := s.freeIdx + 1, inputs := rest })) ∧
      (s.hostTurn (.portWrite n v) rest →
        (n = 0 ∨ 256 < n ∨ 2 ^ n ≤ v → step s = .refused .badPortAccess) ∧
        (1 ≤ n → n ≤ 256 → v < 2 ^ n → s.out.oc = true → step s = .refused .outputNotOpen) ∧
        (1 ≤ n → n ≤ 256 → v < 2 ^ n → s.out.oc = false → step s = .next { s with
          out := { s.out with ob := s.out.ob ++ bin n v }, inputs := rest }))) ∧
    (s.hostTurn (.sourceChange src) rest → step s = .next { s with
      inp := { src := src, ic := min s.inp.ic (8 * src.length), eoi := s.inp.eoi }, inputs := rest }))

/-! ### Encoding and the step -/

/-- R111 to R113, R117, R118, R125: words and tokens written out from the spec's encodings decode to the instructions they
stand for, and an incomplete token to none. -/
def Obligations.HandWrittenWordsDecode : Prop :=
  decodeCommand 0x00000001#32 = .compress ∧ decodeCommand 0x00000002#32 = .decompress ∧
  decodeCommand 0x00000003#32 = .illegal 0x00000003#32 ∧ decodeCommand 0x80000001#32 = .illegal 0x80000001#32 ∧
  decode .hdr [false, true] = .ok (.node, [true]) ∧
  decode .hdr [true, false, false, true, false, false, false, false, false, true] = .ok (.leaf 65#9, []) ∧
  decode .hdr [true, true, false, false, false, false, false, false, false, false] = .ok (.leaf 256#9, []) ∧
  decode .hdr [true, true] = .error .shortSymbol ∧ decode .hdr [] = .error .noFlag

/-- R110 to R118, R125: decoding what the encoder wrote gives the instruction back, and leaves the bits after it, for every
well-formed instruction with every operand. -/
def Obligations.DecodeOfEncodeIsTheInstruction : Prop :=
  ∀ (i : Instr) (rest : List Bool), i.wf = true → decode i.format (encode i ++ rest) = .ok (i, rest)

/-- R110 to R118: what the decoder reads off a bit string is exactly the encoding of a well-formed instruction. -/
def Obligations.EncodeOfDecodeIsTheBits : Prop :=
  ∀ (f : Format) (bits rest : List Bool) (i : Instr), decode f bits = .ok (i, rest) →
    bits = encode i ++ rest ∧ i.wf = true ∧ i.format = f

/-- A step runs the decoded instruction: the command word of a host write to CMD (R33, R111), the header token whose bits
are at the input cursor (R254: a NODE's flag; the symbol field after a LEAF's flag), and the token of the node whose turn it
is to be written (R250). What a read adds around exec is the moved cursor and the recorded transaction. -/
def Obligations.StepRunsTheDecodedInstruction : Prop :=
  (∀ (s : State) (w : Word) (i : Instr) (rest : List Input), s.hostTurn (.regWrite 0x0 4 w) rest →
    decode .cmd32 (bin 32 w.toNat) = .ok (i, []) → step s = exec i { s with inputs := rest }) ∧
  (∀ (s : State) (i : Instr), s.served = true → s.phase = .rheader → s.pending = .top → s.inp.exhausted 1 = false →
    decode .hdr (s.inp.ahead.take 1) = .ok (i, []) → step s = exec i (s.afterRead 1)) ∧
  (∀ (s : State) (i : Instr), s.served = true → s.phase = .rheader → s.pending = .symField →
    s.inp.exhausted 9 = false →
    decode .hdr (true :: s.inp.ahead.take 9) = .ok (i, []) → step s = exec i (s.afterRead 9)) ∧
  (∀ (s : State) (f : Frame) (rest : List Frame), s.coreTurn = true → s.phase = .wheader → s.hstack = f :: rest →
    step s = exec (s.nodeAt f.node).token s)

/-! ### Header tokens -/

/-- R255, R261, with the frame: NODE read in a header allocates the next entry, an internal node of weight 0 and SYM 0, and
waits for its left subtree. -/
def Obligations.NodeTokenReadAllocatesAnInternalNode : Prop :=
  ∀ (s : State) (h : s.nnodes < 513), s.phase = .rheader →
    ∃ t, exec .node s = .next t ∧
      (t.nodeAt ⟨s.nnodes, h⟩).isLeaf = false ∧ (t.nodeAt ⟨s.nnodes, h⟩).w = 0 ∧ (t.nodeAt ⟨s.nnodes, h⟩).sym = 0#9 ∧
      (∀ j : NodeIdx, j.val ≠ s.nnodes → t.nodeAt j = s.nodeAt j) ∧
      t.nnodes = s.nnodes + 1 ∧
      t.hstack = { node := ⟨s.nnodes, h⟩, side := false } :: s.hstack ∧ t.pending = .top ∧
      t = { s with node := t.node, nnodes := t.nnodes, hstack := t.hstack, pending := t.pending }

/-- R254, R256, with the frame: LEAF read in a header allocates the next entry, a leaf of that symbol and weight 0, and hands
it to the node that waits for it: to none (it is the root, and DECODE starts at it), as the left child of the node on top
of the stack, as the right child of the last node (whose tree is then complete), or as the right child of a node that
itself is another's left child. -/
def Obligations.LeafTokenReadAllocatesAndReturnsALeaf : Prop :=
  ∀ (s : State) (sym : Symbol) (h : s.nnodes < 513), Inv s → s.phase = .rheader →
    ∃ t, exec (.leaf sym) s = .next t ∧
      (t.nodeAt ⟨s.nnodes, h⟩).isLeaf = true ∧ (t.nodeAt ⟨s.nnodes, h⟩).sym = sym ∧ (t.nodeAt ⟨s.nnodes, h⟩).w = 0 ∧
      t.nnodes = s.nnodes + 1 ∧ t.pending = .top ∧
      (∀ j : NodeIdx, j.val ≠ s.nnodes → (∀ f ∈ s.hstack, f.node ≠ j) → t.nodeAt j = s.nodeAt j) ∧
      (s.hstack = [] → t.root = ⟨s.nnodes, h⟩ ∧ t.phase = .decode ∧ t.cur = t.root ∧ t.hstack = []) ∧
      (∀ f rest, s.hstack = f :: rest → f.side = false →
        t.nodeAt f.node = { s.nodeAt f.node with l := ⟨s.nnodes, h⟩ } ∧ t.phase = .rheader ∧
        t.hstack = { f with side := true } :: rest) ∧
      (∀ f, s.hstack = [f] → f.side = true →
        t.nodeAt f.node = { s.nodeAt f.node with r := ⟨s.nnodes, h⟩ } ∧ t.root = f.node ∧ t.phase = .decode ∧
        t.cur = t.root ∧ t.hstack = []) ∧
      (∀ f g rest, s.hstack = f :: g :: rest → f.side = true → g.side = false →
        t.nodeAt f.node = { s.nodeAt f.node with r := ⟨s.nnodes, h⟩ } ∧
        t.nodeAt g.node = { s.nodeAt g.node with l := f.node } ∧ t.phase = .rheader ∧
        t.hstack = { g with side := true } :: rest) ∧
      t = { s with node := t.node, nnodes := t.nnodes, hstack := t.hstack, pending := t.pending,
                   root := t.root, cur := t.cur, phase := t.phase }

/-- R257: the 514th node of a header raises NODE_OVERFLOW with ERRINFO 0, at the flag of an internal node and after the
symbol of a leaf. That the internal memories are as they were after the error is the model's choice (log 19): R324 leaves
them unspecified. -/
def Obligations.NodeOverflowAtTheAllocation : Prop :=
  ∀ (s : State) (sym : Symbol), s.phase = .rheader → s.nnodes = 513 →
    exec .node s = .next (raise .nodeOverflow 0#32 s) ∧ exec (.leaf sym) s = .next (raise .nodeOverflow 0#32 s)

/-- R251, with the frame: NODE written is one OutWrite(1, 0), and then the left subtree's tokens before the right's. -/
def Obligations.NodeTokenWrittenIsOneZeroBit : Prop :=
  ∀ (s : State) (f : Frame) (rest : List Frame), s.phase = .wheader → s.hstack = f :: rest → s.out.oc = false →
    s.draw = .serve →
    exec .node s = .next { s.afterWrite 1 0 with
      hstack := { node := (s.nodeAt f.node).l, side := false } ::
        { node := (s.nodeAt f.node).r, side := false } :: rest } ∧
    (s.afterWrite 1 0).out.ob = s.out.ob ++ [false]

/-- R252, with the frame: LEAF written is OutWrite(1, 1) and then OutWrite(9, s), and after the last token comes
REWIND (R158). -/
def Obligations.LeafTokenWrittenIsAOneAndNineBits : Prop :=
  ∀ (s : State) (sym : Symbol) (f : Frame) (rest : List Frame), s.phase = .wheader → s.hstack = f :: rest →
    s.out.oc = false → s.draw = .serve →
    (s.pending ≠ .symField → exec (.leaf sym) s = .next { s.afterWrite 1 1 with pending := .symField }) ∧
    (s.pending = .symField → exec (.leaf sym) s = .next { s.afterWrite 9 sym.toNat with
      hstack := rest, pending := .top, phase := if rest = [] then .rewind else .wheader }) ∧
    (s.afterWrite 1 1).out.ob = s.out.ob ++ [true] ∧
    (s.afterWrite 9 sym.toNat).out.ob = s.out.ob ++ bin 9 sym.toNat

/-! ### The ports -/

/-- R71, R80: bit `8k + j` of a stream is bit `7 - j` of byte `k`, on the way in and on the way out. -/
def Obligations.StreamBitsRunFromTheMostSignificant : Prop :=
  (∀ (src : List Byte) (k j : Nat) (b : Byte), src[k]? = some b → j ≤ 7 →
    (bitsOf src).length = 8 * src.length ∧ (bitsOf src)[8 * k + j]? = some (b.getLsbD (7 - j))) ∧
  (∀ (bits : List Bool) (k j : Nat) (b : Byte), 8 ∣ bits.length → (bytesOf bits)[k]? = some b → j ≤ 7 →
    (bytesOf bits).length = bits.length / 8 ∧ bits[8 * k + j]? = some (b.getLsbD (7 - j)))

/-- R72: `InRead(n)` with enough bits left returns their value, the first of them the most significant, and moves the cursor
by `n`. -/
def Obligations.InReadReturnsTheNextField : Prop :=
  ∀ (s : State) (n : Nat), (n = 1 ∨ n = 8 ∨ n = 9 ∨ n = 32) → s.draw = .serve → s.inp.eoi = false →
    s.inp.ic + n ≤ s.inp.size →
    ∃ v, inRead n s = .next (.val v, s.afterRead n) ∧ v < 2 ^ n ∧
      (∀ j < n, (bitsOf s.inp.src)[s.inp.ic + j]? = some (v.testBit (n - 1 - j))) ∧
      (s.afterRead n).inp = { s.inp with ic := s.inp.ic + n }

/-- R73 and R74: `InRead(n)` with fewer than `n` bits left returns EOI, and so does every further read. The cursor after it is
a free value: nothing is said of it but R71's bound. -/
def Obligations.InReadAtTheEndReturnsEoi : Prop :=
  ∀ (s : State) (n : Nat), s.draw = .serve → (s.inp.size < s.inp.ic + n ∨ s.inp.eoi = true) →
    ∃ t, inRead n s = .next (.eoi, t) ∧ t.inp.eoi = true ∧ t.inp.src = s.inp.src ∧ t.inp.ic ≤ t.inp.size ∧
      t = { s with inp := t.inp, inputs := t.inputs, trace := s.trace ++ [.inRead n .eoi], freeIdx := t.freeIdx } ∧
      ∀ m, t.draw = .serve → ∃ u, inRead m t = .next (.eoi, u)

/-- R75: `InReset()` puts the cursor at 0 and leaves the source as it is; reads may return values again (R74). -/
def Obligations.InResetRewinds : Prop :=
  ∀ s : State, s.draw = .serve →
    ∃ t, inReset s = .next (.ok, t) ∧ t.inp = { src := s.inp.src, ic := 0, eoi := false } ∧
      t = { s with inp := t.inp, inputs := t.inputs, trace := s.trace ++ [.inReset .ok] }

/-- R77: `OutWrite(n, v)` on an open port appends `bin_n(v)`, `n` bits whose first is the most significant of `v`. -/
def Obligations.OutWriteAppends : Prop :=
  ∀ (s : State) (n v : Nat), 1 ≤ n → n ≤ 256 → v < 2 ^ n → s.out.oc = false → s.draw = .serve →
    ∃ t, outWrite n v s = .next (.ok, t) ∧ t.out = { s.out with ob := s.out.ob ++ bin n v } ∧
      (bin n v).length = n ∧ (∀ j < n, (bin n v)[j]? = some (v.testBit (n - 1 - j))) ∧ val (bin n v) = v ∧
      t = { s with out := t.out, inputs := t.inputs, trace := s.trace ++ [.outWrite n v .ok] }

/-- R78: `OutClose()` on an open port pads with the least number of zero bits that makes whole bytes, delivers those bytes,
and closes the port. -/
def Obligations.OutClosePadsAndDelivers : Prop :=
  ∀ s : State, s.out.oc = false → s.draw = .serve →
    ∃ t p, outClose s = .next (.ok, t) ∧ 8 ∣ s.out.ob.length + p ∧
      (∀ p', 8 ∣ s.out.ob.length + p' → p ≤ p') ∧
      t.out.ob = s.out.ob ++ List.replicate p false ∧ t.out.oc = true ∧ bitsOf t.out.sink = t.out.ob ∧
      t = { s with out := t.out, inputs := t.inputs, trace := s.trace ++ [.outClose .ok] }

/-- R79: two writes leave the output as the one joined write does. -/
def Obligations.TwoWritesAreTheJoinedWrite : Prop :=
  ∀ (s t u v : State) (a b x y : Nat), x < 2 ^ a → y < 2 ^ b →
    outWrite a x s = .next (.ok, t) → outWrite b y t = .next (.ok, u) →
    outWrite (a + b) (x * 2 ^ b + y) s = .next (.ok, v) → u.out.ob = v.out.ob

/-- R314, R320, R323: an input transaction answered FAULT(c), in whatever phase, raises PORT_FAULT_IN with ERRINFO c; the
output is untouched. The frame fixes the internal memories (FREQ, NODE, CODE, Q, HSTACK) after the error, which R324 and X12
leave unspecified: that they are as they were is the model's choice (log 19). -/
def Obligations.InputFaultRaisesPortFaultIn : Prop :=
  ∀ (s : State) (c : Word) (e : FaultEffect), s.coreTurn = true → s.draw = .fault c e → s.readsNext = true →
    ∃ t, step s = .next t ∧ t.status = { s.status with err := true, errcode := .portFaultIn } ∧ t.errinfo = c ∧
      t.phase = .close ∧ t.out = s.out ∧
      t = { s with status := t.status, errinfo := t.errinfo, phase := t.phase, pending := t.pending,
                   inp := t.inp, inputs := t.inputs, trace := t.trace }

/-- R253, R315, R320: an OutWrite answered FAULT(c), in whatever phase, raises PORT_FAULT_OUT with ERRINFO c. The frame fixes
the internal memories (FREQ, NODE, CODE, Q, HSTACK) after the error, which R324 and X12 leave unspecified: that they are as
they were is the model's choice (log 19). -/
def Obligations.OutputFaultRaisesPortFaultOut : Prop :=
  ∀ (s : State) (c : Word) (e : FaultEffect), s.coreTurn = true → s.draw = .fault c e → s.writesNext = true →
    s.out.oc = false →
    ∃ t, step s = .next t ∧ t.status = { s.status with err := true, errcode := .portFaultOut } ∧ t.errinfo = c ∧
      t.phase = .close ∧ t.inp = s.inp ∧
      t = { s with status := t.status, errinfo := t.errinfo, phase := t.phase, pending := t.pending,
                   out := t.out, inputs := t.inputs, trace := t.trace }

/-- R362: a port that never answers leaves the core stuck, in every phase that issues a transaction. -/
def Obligations.SilentPortLeavesTheCoreStuck : Prop :=
  ∀ s : State, s.coreTurn = true → s.draw = .silent →
    (s.readsNext = true ∨ (s.phase = .close ∨ s.writesNext = true) ∧ s.out.oc = false) →
    step s = .fault .portNeverAnswers

/-! ### Error entry and completion -/

/-- R320: error entry writes ERRCODE, ERR and ERRINFO, leaves BUSY and DONE, and abandons the phase: the next transaction is
OutClose, on every state, and it ends the command. That FREQ, NODE, CODE, Q and HSTACK are as they were after the error is the
model's choice (log 19): R324 leaves them unspecified. -/
def Obligations.ErrorEntryGoesToClose : Prop :=
  ∀ (e : ErrCode) (info : Word) (s : State),
    (raise e info s).status = { s.status with err := true, errcode := e } ∧ (raise e info s).errinfo = info ∧
    (raise e info s).phase = .close ∧
    raise e info s = { s with status := (raise e info s).status, errinfo := info, phase := .close, pending := .top } ∧
    ∀ t, s.coreTurn = true → step (raise e info s) = .next t →
      (∃ a, t.trace = s.trace ++ [.outClose a]) ∧ t.status.busy = false ∧ t.status.done = true

/-- R157 and R322: the end of a command, whose output is open (R78, R356). OutClose answered OK leaves the error as it was;
answered FAULT(c) it is reported only if no error was raised before. After an error R324 leaves the internal memories
unspecified: that they are as they were is the model's choice (log 19). -/
def Obligations.CompletionKeepsTheFirstError : Prop :=
  ∀ s : State, s.coreTurn = true → s.phase = .close → s.out.oc = false →
    (s.draw = .serve → ∃ t, step s = .next t ∧ t.status = { s.status with busy := false, done := true } ∧
      t.errinfo = s.errinfo ∧ t.phase = .idle ∧ t.op = .noOp ∧ t.trace = s.trace ++ [.outClose .ok] ∧
      t.out = s.out.closed ∧
      t = { s with status := t.status, op := t.op, phase := t.phase, pending := t.pending, out := t.out,
                   inputs := t.inputs, trace := t.trace }) ∧
    (∀ c e, s.draw = .fault c e → ∃ t, step s = .next t ∧ t.phase = .idle ∧ t.op = .noOp ∧
      t.trace = s.trace ++ [.outClose (.fault c)] ∧ t.inp = s.inp ∧
      (s.status.errcode = .noError →
        t.status = { busy := false, done := true, err := true, errcode := .portFaultOut } ∧ t.errinfo = c) ∧
      (s.status.errcode ≠ .noError →
        t.status = { s.status with busy := false, done := true } ∧ t.errinfo = s.errinfo))

/-! ### COMPRESS, phase by phase -/

/-- R180, R182, R183: COUNT counts one byte, and changes nothing else but the cursor; a byte read while TOTAL is `2^WB - 2`
raises COUNT_OVERFLOW with ERRINFO 0, before changing FREQ or TOTAL, and the output stays. That FREQ and the other internal
memories are as they were after the error is the model's choice (log 19): R324 leaves them unspecified. -/
def Obligations.CountCountsOneByteOrOverflows : Prop :=
  ∀ s : State, s.served = true → s.phase = .count → s.inp.exhausted 8 = false →
    (s.total ≠ 2 ^ s.wb - 2 →
      ∃ (t : State) (b : Byte), step s = .next t ∧ b.toNat = s.inp.field 8 ∧
        (∀ x : Byte, t.freq[x.toNat] = if x = b then s.freq[x.toNat] + 1 else s.freq[x.toNat]) ∧
        t.total = s.total + 1 ∧ t = { s.afterRead 8 with freq := t.freq, total := t.total }) ∧
    (s.total = 2 ^ s.wb - 2 →
      step s = .next (raise .countOverflow 0#32 (s.afterRead 8)) ∧
      (raise .countOverflow 0#32 (s.afterRead 8)).freq = s.freq ∧
      (raise .countOverflow 0#32 (s.afterRead 8)).total = s.total ∧
      (raise .countOverflow 0#32 (s.afterRead 8)).out = s.out)

/-- R182, R184, R187: the first pass over a whole source of at most `2^WB - 2` bytes counts every byte value, and BUILD and
GENCODES follow it in the step of its EOI (R12), also for the empty source. -/
def Obligations.CountPassCountsTheSource : Prop :=
  ∀ (s : State) (src : List Byte), s.allServed → s.phase = .count →
    s.freq = Vector.replicate 256 0 → s.total = 0 → s.inp = { src := src, ic := 0, eoi := false } →
    src.length ≤ 2 ^ s.wb - 2 →
    ∃ t, runs (src.length + 1) s = .next t ∧ t.phase = .wmagic ∧ t.total = src.length ∧
      (∀ b : Byte, t.freq[b.toNat] = src.count b) ∧ t.inp.src = src ∧ t.out = s.out ∧ t.status = s.status

/-- R204: the extracted index is in Q, and its `(W, index)` is least. -/
def Obligations.ExtractionTakesTheLeastWeightAndIndex : Prop :=
  ∀ (w : NodeIdx → Nat) (q : List NodeIdx), q ≠ [] →
    ∃ i, firstRanked w q = some i ∧ i ∈ q ∧ ∀ j ∈ q, j ≠ i → w i < w j ∨ (w i = w j ∧ i.val < j.val)

/-- R200, R205, R206: one merge of BUILD. The first extracted node is the left child, the second the right, the weight their
sum, and the new node is inserted after all others. The merge keeps the invariant of BUILD's loop. -/
def Obligations.MergeJoinsTheTwoLightestNodes : Prop :=
  ∀ s : State, Building s → 2 ≤ s.q.length →
    ∃ (t : State) (a c m : NodeIdx), mergeStep s = .next t ∧ a ∈ s.q ∧ c ∈ s.q ∧ a ≠ c ∧ m.val = s.nnodes ∧
      (∀ j ∈ s.q, j ≠ a → (s.nodeAt a).w < (s.nodeAt j).w ∨ ((s.nodeAt a).w = (s.nodeAt j).w ∧ a.val < j.val)) ∧
      (∀ j ∈ s.q, j ≠ a → j ≠ c →
        (s.nodeAt c).w < (s.nodeAt j).w ∨ ((s.nodeAt c).w = (s.nodeAt j).w ∧ c.val < j.val)) ∧
      t.nodeAt m = { isLeaf := false, sym := 0#9, w := (s.nodeAt a).w + (s.nodeAt c).w, l := a, r := c } ∧
      (∀ j : NodeIdx, j ≠ m → t.nodeAt j = s.nodeAt j) ∧
      t.q = (s.q.erase a).erase c ++ [m] ∧ t.nnodes = s.nnodes + 1 ∧
      t = { s with node := t.node, nnodes := t.nnodes, q := t.q } ∧ Building t

/-- R211, R186: BUILD raises nothing, never runs out of nodes, and every weight in Q fits in WB bits. The step of COUNT's EOI
seeds it, which gives its loop's invariant, and runs it and GENCODES whole (R12); from every state that meets the invariant
the loop ends. -/
def Obligations.BuildNeverStopsAndWeightsFit : Prop :=
  (∀ s : State, Inv s → s.served = true → s.phase = .count → s.inp.exhausted 8 = true →
    ∃ u t, startBuild (s.afterEoi 8) = .next u ∧ Building u ∧ step s = .next t ∧ t.status = s.status) ∧
  (∀ s : State, Building s →
    (∃ t, mergeAll s.q.length s = .next t ∧ t.status = s.status ∧ t.q = []) ∧
    ∀ i ∈ s.q, (s.nodeAt i).w ≤ 2 ^ s.wb - 1)

/-- R202, R203, R207 to R211, R230, R12: the step of COUNT's EOI makes a tree in the node store whose leaves are the bytes with
a positive count, each with its count as its weight, and the sentinel with weight 1. The byte leaves stand at the first
indices in ascending byte value, and the sentinel's after them. Inner weights are sums, the root weighs TOTAL + 1, and
`2L - 1` nodes are allocated. A source without bytes gives the single sentinel leaf, at index 0. CODE holds the tree's codes,
and nothing else changes but the read's own effect. -/
def Obligations.BuildMakesTheTreeOfTheCounts : Prop :=
  ∀ s : State, Inv s → s.served = true → s.phase = .count → s.inp.exhausted 8 = true →
    ∃ (t : State) (T : Tree), step s = .next t ∧ t.phase = .wmagic ∧ Holds t.node t.root T ∧ T.sums = true ∧
      T.weight = s.total + 1 ∧
      T.leaves.Perm (countedLeaves s.freq) ∧
      (∀ k x, (countedLeaves s.freq)[k]? = some x → ∃ h : k < 513,
        (t.nodeAt ⟨k, h⟩).isLeaf = true ∧ (t.nodeAt ⟨k, h⟩).sym = x.1 ∧ (t.nodeAt ⟨k, h⟩).w = x.2) ∧
      T.symbols.Perm (((List.finRange 256).filter (fun b => s.freq[b.val] > 0)).map (fun b => BitVec.ofNat 9 b.val)
        ++ [sentinel]) ∧
      T.symbols.Nodup ∧ t.nnodes + 1 = 2 * T.symbols.length ∧ T.size = t.nnodes ∧
      (s.total = 0 → T = .leaf sentinel 1 ∧ t.root = 0) ∧
      CodesAre t.code T.codes ∧
      t = { s.afterEoi 8 with phase := t.phase, pending := t.pending, node := t.node, nnodes := t.nnodes, root := t.root,
                              code := t.code }

/-- R230 to R233, R237: GENCODES of a tree in the node store gives each leaf symbol its path from the root (the code `"0"`
when the root is the only leaf), every other symbol no code, and issues no transaction. -/
def Obligations.GencodesGivesTheTreePaths : Prop :=
  ∀ (s : State) (T : Tree), Holds s.node s.root T → T.symbols.Nodup → (∀ x ∈ T.symbols, x.toNat ≤ 256) →
    (∀ x ∈ T.paths, x.2.length ≤ 256) →
    ∃ t, gencodes s = .next t ∧ t.phase = .wmagic ∧ CodesAre t.code T.codes ∧
      t = { s with phase := t.phase, pending := t.pending, code := t.code }

/-- R235: in the code table of a tree, no symbol's code is a prefix of another symbol's. -/
def Obligations.CodesOfATreeArePrefixFree : Prop :=
  ∀ (table : Vector CodeEntry 257) (T : Tree), CodesAre table T.codes →
    ∀ j k : Fin 257, j ≠ k → (table[j.val]).len ≠ 0 → (table[k.val]).len ≠ 0 →
      ¬ (table[j.val]).bitString <+: (table[k.val]).bitString

/-- R264: WRITE_MAGIC writes MAGIC as 32 bits; WRITE_HEADER then starts at the root (R250). -/
def Obligations.WriteMagicWritesTheConstant : Prop :=
  ∀ s : State, s.served = true → s.phase = .wmagic → s.out.oc = false →
    step s = .next { s.afterWrite 32 s.magic.toNat with
      phase := .wheader, pending := .top, hstack := [{ node := s.root, side := false }] } ∧
    (s.afterWrite 32 s.magic.toNat).out.ob = s.out.ob ++ bin 32 s.magic.toNat

/-- R116, R250 to R252: WRITE_HEADER of a tree in the node store writes its preorder serialization, and nothing else changes
but the traversal's own state. -/
def Obligations.WriteHeaderWritesThePreorder : Prop :=
  ∀ (s : State) (T : Tree), s.allServed → s.phase = .wheader → s.pending = .top →
    s.hstack = [{ node := s.root, side := false }] → s.out.oc = false → Holds s.node s.root T →
    ∃ t, Reaches s t ∧ t.phase = .rewind ∧ t.out = { s.out with ob := s.out.ob ++ T.header } ∧
      t = { s with phase := t.phase, pending := t.pending, hstack := t.hstack, out := t.out, inputs := t.inputs,
                   trace := t.trace }

/-- R281: REWIND puts the cursor at 0 and goes on to ENCODE. -/
def Obligations.RewindGoesBackToTheFirstByte : Prop :=
  ∀ s : State, s.served = true → s.phase = .rewind →
    ∃ t, step s = .next t ∧ t.phase = .encode ∧ t.pending = .top ∧
      t.inp = { src := s.inp.src, ic := 0, eoi := false } ∧ t.trace = s.trace ++ [.inReset .ok] ∧
      t = { s with phase := t.phase, pending := t.pending, inp := t.inp, inputs := t.inputs, trace := t.trace }

/-- R280, R282 to R284: ENCODE's read and write. A byte without a code raises NO_CODE with the byte in ERRINFO, before
anything is written for it; the code of a byte, and the sentinel's code at the end, is written as a field of its own
length. That the internal memories are as they were after the error is the model's choice (log 19): R324 leaves them
unspecified. -/
def Obligations.EncodeWritesOneCodePerByte : Prop :=
  ∀ s : State, s.served = true → s.phase = .encode →
    (s.pending = .top → s.inp.exhausted 8 = true →
      step s = .next { s.afterEoi 8 with pending := .code 256 }) ∧
    (∀ b : Byte, s.pending = .top → s.inp.exhausted 8 = false → b.toNat = s.inp.field 8 →
      ((s.code[(byteIndex b).val]).len = 0 →
        step s = .next (raise .noCode (b.setWidth 32) (s.afterRead 8)) ∧
        (raise .noCode (b.setWidth 32) (s.afterRead 8)).out = s.out) ∧
      ((s.code[(byteIndex b).val]).len ≠ 0 →
        step s = .next { s.afterRead 8 with pending := .code (byteIndex b) })) ∧
    (∀ k : Fin 257, s.pending = .code k → s.out.oc = false → (s.code[k.val]).len ≠ 0 →
      ∃ t, step s = .next t ∧ t.out = { s.out with ob := s.out.ob ++ (s.code[k.val]).bitString } ∧
        t.pending = .top ∧ t.phase = (if k.val = 256 then .close else .encode) ∧
        t = { s with phase := t.phase, pending := t.pending, out := t.out, inputs := t.inputs,
                     trace := s.trace ++ [.outWrite (s.code[k.val]).len.val (s.code[k.val]).bits.toNat .ok] })

/-- R121, R280, R282, R283: the second pass over a source whose bytes all have codes writes the payload and goes on to the
close, also for the empty source. -/
def Obligations.EncodePassWritesThePayload : Prop :=
  ∀ (s : State) (src : List Byte), s.allServed → s.phase = .encode → s.pending = .top →
    s.inp = { src := src, ic := 0, eoi := false } → s.out.oc = false →
    (∀ b ∈ src, (s.code[(byteIndex b).val]).len ≠ 0) → (s.code[sentinelIndex.val]).len ≠ 0 →
    ∃ t, runs (2 * src.length + 2) s = .next t ∧ t.phase = .close ∧ t.status = s.status ∧
      t.out = { s.out with ob := s.out.ob ++ payload s.code src } ∧ t.code = s.code ∧ t.inp.src = src

/-! ### DECOMPRESS, phase by phase -/

/-- R265, R311: READ_MAGIC compares 32 bits with MAGIC. A mismatch and an end of input raise BAD_MAGIC; a match goes on to
READ_HEADER with an empty node store (R254). That the internal memories are as they were after the error is the model's
choice (log 19): R324 leaves them unspecified. -/
def Obligations.ReadMagicComparesWithTheConstant : Prop :=
  ∀ s : State, s.served = true → s.phase = .rmagic →
    (s.inp.exhausted 32 = true → step s = .next (raise .badMagic 0#32 (s.afterEoi 32))) ∧
    (s.inp.exhausted 32 = false → s.inp.field 32 ≠ s.magic.toNat →
      step s = .next (raise .badMagic (BitVec.ofNat 32 (s.inp.field 32)) (s.afterRead 32))) ∧
    (s.inp.exhausted 32 = false → s.inp.field 32 = s.magic.toNat →
      step s = .next { s.afterRead 32 with phase := .rheader, pending := .top, nnodes := 0, hstack := [] })

/-- R161, R74: an input that does not go on, from its cursor, with the 32 bits of MAGIC ends DECOMPRESS with BAD_MAGIC after
its first read, also after an EOI: no header bit is read and nothing is written before the OutClose. That the bits from the
cursor on are the artifact, wherever it stands, is the model's choice (log 32). -/
def Obligations.BadMagicEndsDecompress : Prop :=
  ∀ s : State, Ready s 2#32 → s.inp.eoi = true ∨ s.inp.ahead.take 32 ≠ bin 32 s.magic.toNat →
    ∃ t a, runs 3 s = .next t ∧ t.phase = .idle ∧ t.status.word = 0x106#32 ∧
      t.trace = [.inRead 32 a, .outClose .ok] ∧ t.out.ob = [] ∧ t.out.sink = []

/-- R258: an end of input where a flag or a symbol is expected raises TRUNCATED_HEADER with ERRINFO 0. That the internal
memories are as they were after the error is the model's choice (log 19): R324 leaves them unspecified. -/
def Obligations.TruncatedHeaderAtTheEndOfInput : Prop :=
  ∀ s : State, s.served = true → s.phase = .rheader →
    (s.pending = .top → s.inp.exhausted 1 = true → step s = .next (raise .truncatedHeader 0#32 (s.afterEoi 1))) ∧
    (s.pending = .symField → s.inp.exhausted 9 = true →
      step s = .next (raise .truncatedHeader 0#32 (s.afterEoi 9)))

/-- R254 to R256, R260, R261: READ_HEADER of an input that goes on with the header of a tree of at most 513 nodes reads
exactly its bits and leaves that tree, with every weight 0, in the node store; DECODE starts at its root. -/
def Obligations.ReadHeaderRebuildsTheTree : Prop :=
  ∀ (s : State) (T : Tree) (rest : List Bool), s.allServed → s.phase = .rheader → s.pending = .top →
    s.hstack = [] → s.nnodes = 0 → s.inp.eoi = false → s.inp.ic ≤ s.inp.size → s.inp.ahead = T.header ++ rest →
    T.size ≤ 513 →
    ∃ t, Reaches s t ∧ t.phase = .decode ∧ t.pending = .top ∧ Holds t.node t.root T.unweighted ∧ t.cur = t.root ∧
      t.nnodes = T.size ∧ t.inp = { s.inp with ic := s.inp.ic + T.header.length } ∧ t.inp.ahead = rest ∧
      t = { s with phase := t.phase, pending := t.pending, node := t.node, nnodes := t.nnodes, hstack := t.hstack,
                   root := t.root, cur := t.cur, inp := t.inp, inputs := t.inputs, trace := t.trace }

/-- R285 to R291: one step of DECODE. A bit leads to a child, or stays at a single-leaf root; an internal node is walked on
from, the sentinel ends the command, a symbol above it raises BAD_SYMBOL with the symbol in ERRINFO, a literal is written
next; an end of input raises TRUNCATED_PAYLOAD. A literal is written as 8 bits, and the walk starts again at the root.
That the internal memories are as they were after an error is the model's choice (log 19): R324 leaves them unspecified. -/
def Obligations.DecodeWalksOneEdgePerBit : Prop :=
  ∀ s : State, s.served = true → s.phase = .decode →
    (s.pending = .top → s.inp.exhausted 1 = true →
      step s = .next (raise .truncatedPayload 0#32 (s.afterEoi 1))) ∧
    (∀ i : NodeIdx, s.pending = .top → s.inp.exhausted 1 = false →
      i = (if (s.nodeAt s.cur).isLeaf then s.cur
           else if s.inp.field 1 = 1 then (s.nodeAt s.cur).r else (s.nodeAt s.cur).l) →
      ((s.nodeAt i).isLeaf = false → step s = .next { s.afterRead 1 with cur := i }) ∧
      ((s.nodeAt i).isLeaf = true → (s.nodeAt i).sym.toNat = 256 →
        step s = .next { s.afterRead 1 with phase := .close }) ∧
      ((s.nodeAt i).isLeaf = true → 256 < (s.nodeAt i).sym.toNat →
        step s = .next (raise .badSymbol ((s.nodeAt i).sym.setWidth 32) (s.afterRead 1))) ∧
      ((s.nodeAt i).isLeaf = true → (s.nodeAt i).sym.toNat < 256 →
        ∃ b : Byte, b.toNat = (s.nodeAt i).sym.toNat ∧
          step s = .next { s.afterRead 1 with pending := .literal b })) ∧
    (∀ b : Byte, s.pending = .literal b → s.out.oc = false →
      step s = .next { s.afterWrite 8 b.toNat with cur := s.root, pending := .top } ∧
      (s.afterWrite 8 b.toNat).out.ob = s.out.ob ++ bin 8 b.toNat)

/-- R126, R286 to R290, R293: from the root, the bits of a leaf's code lead exactly to that leaf, one transaction a bit.
That NODE is as it was after BAD_SYMBOL is the model's choice (log 19): R324 leaves it unspecified. -/
def Obligations.DecodeOfACodeReachesItsLeaf : Prop :=
  ∀ (s : State) (T : Tree) (sym : Symbol) (p rest : List Bool), s.allServed → s.phase = .decode → s.pending = .top →
    s.cur = s.root → Holds s.node s.root T → (sym, p) ∈ T.codes → s.inp.eoi = false → s.inp.ic ≤ s.inp.size →
    s.inp.ahead = p ++ rest →
    ∃ t, runs p.length s = .next t ∧ t.inp = { s.inp with ic := s.inp.ic + p.length } ∧ t.out = s.out ∧
      t.node = s.node ∧ t.root = s.root ∧
      (sym.toNat < 256 → t.phase = .decode ∧ t.status = s.status ∧ t.pending = .literal (sym.setWidth 8)) ∧
      (sym.toNat = 256 → t.phase = .close ∧ t.status = s.status) ∧
      (256 < sym.toNat → t.phase = .close ∧ t.status = s.status.withError .badSymbol ∧ t.errinfo = sym.setWidth 32)

/-! ### The whole machine -/

/-- R37, R8: no step changes MAGIC or WB. -/
def Obligations.NoStepChangesTheBuildConstants : Prop :=
  ∀ s t : State, step s = .next t → t.magic = s.magic ∧ t.wb = s.wb

/-- R35: STATUS is written only by the acceptance of a command, by error entry, by completion (with the fault of its own
OutClose, R157), by an illegal word (R156), and by reset. -/
def Obligations.OnlyTheStatedEventsWriteStatus : Prop :=
  ∀ s t : State, Inv s → step s = .next t →
    t.status = s.status ∨
    (s.status.busy = false ∧ t.status = Status.accepted ∧ (t.phase = .count ∨ t.phase = .rmagic)) ∨
    (s.status.busy = false ∧ t.status = { busy := false, done := true, err := true, errcode := .illegalCommand }) ∨
    (∃ e, s.status.errcode = .noError ∧ s.phase ≠ .idle ∧ s.phase ≠ .close ∧ t.phase = .close ∧
      t.status = { s.status with err := true, errcode := e }) ∨
    (s.phase = .close ∧ t.phase = .idle ∧ (t.status = { s.status with busy := false, done := true } ∨
      (s.status.errcode = .noError ∧
        t.status = { busy := false, done := true, err := true, errcode := .portFaultOut }))) ∨
    ((∃ inp out rest, s.hostTurn (.reset inp out) rest) ∧ t.status.word = 0#32)

/-- R158: PHASE moves only along the stated edges, or to IDLE by a reset. In the step of COUNT's EOI it moves along three of
them, since BUILD and GENCODES issue no transaction (R12): to BUILD as BUILD starts, where the merges leave it, to GENCODES
as GENCODES starts, and to WMAGIC at its end. -/
def Obligations.PhaseMovesOnlyAlongTheEdges : Prop :=
  (∀ s t : State, Inv s → step s = .next t →
    t.phase = s.phase ∨ s.phase.edge t.phase = true ∨
    (s.phase = .count ∧ s.served = true ∧ s.inp.exhausted 8 = true ∧ t.phase = .wmagic ∧
      ∃ u v, startBuild (s.afterEoi 8) = .next u ∧ mergeAll u.q.length u = .next v ∧ gencodes v = .next t) ∨
    ((∃ inp out rest, s.hostTurn (.reset inp out) rest) ∧ t.phase = .idle)) ∧
  (∀ s t : State, startBuild s = .next t → t.phase = .build) ∧
  (∀ (s t : State) (size : Nat), mergeAll size s = .next t → t.phase = s.phase) ∧
  (∀ s : State, (startGencodes s).phase = .gencodes) ∧
  (∀ (s t : State) (levels : Nat) (i : NodeIdx) (path : List Bool), visit levels i path s = .next t →
    t.phase = s.phase) ∧
  (∀ s t : State, gencodes s = .next t → t.phase = .wmagic)

/-- R12, R83, R87, R88: a step of the core issues at most one port transaction, after all those before it, and exactly one
when its next transaction is a read, a write or the OutClose of CLOSE; BUILD and GENCODES issue none and touch no port (R200,
R230); a step of the host issues none (an accepted word and a reset begin the model's own record of transactions anew,
log 30). -/
def Obligations.AStepIssuesAtMostOneTransaction : Prop :=
  (∀ s t : State, step s = .next t →
    (s.coreTurn = true → t.trace = s.trace ∨ ∃ x, t.trace = s.trace ++ [x]) ∧
    (s.coreTurn = true → s.readsNext = true ∨ s.writesNext = true ∨ s.phase = .close →
      ∃ x, t.trace = s.trace ++ [x]) ∧
    (s.coreTurn = false → t.trace = s.trace ∨ t.trace = [])) ∧
  (∀ s t : State, build s = .next t ∨ gencodes s = .next t →
    t.trace = s.trace ∧ t.inp = s.inp ∧ t.out = s.out)

/-- The reset state meets the invariant. That Q is empty outside BUILD is the model's choice (logs 1 and 19). -/
def Obligations.ResetMeetsTheInvariant : Prop :=
  Inv State.reset

/-- Every step keeps the invariant: the clauses of R8, R12, R34 to R36, R39, R41, R42, R49, R71, R77, R158, R186 and R320
that `Inv` lists. That Q is empty outside BUILD is the model's choice (log 19): R47 leaves its contents there unspecified. -/
def Obligations.EveryStepKeepsTheInvariant : Prop :=
  ∀ s t : State, Inv s → step s = .next t → Inv t

/-- R114, R121, R152, R153, R202, R203, R207 to R210, R232, R233: COMPRESS of a source of at most `2^WB - 2` bytes, with no
fault, ends without an error, and its output is the magic number, the header of a tree whose leaves are the source's bytes
with their numbers of occurrences and the sentinel with weight 1, the payload under that tree's codes, and zero padding to
whole bytes; it takes `3N + 3L + 5` transactions. -/
def Obligations.CompressWritesTheArtifact : Prop :=
  ∀ (s : State) (src : List Byte), Launch s 1#32 src → src.length ≤ 2 ^ s.wb - 2 →
    ∃ (t : State) (T : Tree), Leads s t ∧ t.phase = .idle ∧ t.status.word = 0x2#32 ∧ t.errinfo = 0#32 ∧
      Holds t.node t.root T ∧ T.sums = true ∧ T.weight = src.length + 1 ∧
      T.leaves.Perm (sourceLeaves src) ∧ T.symbols.Perm (sourceSymbols src) ∧
      CodesAre t.code T.codes ∧
      t.out.ob = padded (bin 32 s.magic.toNat ++ T.header ++ payload t.code src) ∧ bitsOf t.out.sink = t.out.ob ∧
      t.trace.length = 3 * src.length + 3 * T.symbols.length + 5

/-- R160: DECOMPRESS of what COMPRESS wrote, started at its first bit, gives the source back, byte for byte, and both end with
ERRCODE 0: wherever in its source the artifact begins (R355), and whatever follows it there (X18). -/
def Obligations.DecompressOfCompressIsTheSource : Prop :=
  ∀ (s : State) (src : List Byte), Launch s 1#32 src → src.length ≤ 2 ^ s.wb - 2 →
    ∃ t, Leads s t ∧ t.phase = .idle ∧ t.status.word = 0x2#32 ∧
      ∀ (u : State) (more : List Bool), Ready u 2#32 → u.inp.eoi = false → u.inp.ahead = bitsOf t.out.sink ++ more →
        u.magic = s.magic →
        ∃ v, Leads u v ∧ v.phase = .idle ∧ v.status.word = 0x2#32 ∧ v.out.sink = src

/-- R159: if every transaction is answered, as the contract says or with a fault, every command completes, whatever the
input and wherever its cursor stands (for COMPRESS at the first bit, R354): the core is idle and DONE again some steps after
the CMD write (at the write itself for an illegal word). The launches after an EOI and those of DECOMPRESS at any cursor are
logs 14 and 32. -/
def Obligations.EveryCommandCompletes : Prop :=
  ∀ (s : State) (w : Word) (answers : List Draw), Ready s w → (w = 1#32 → s.inp.ic = 0) →
    (∀ d ∈ answers, d ≠ .silent) →
    ∃ u t, step { s with inputs := .host (.regWrite 0x0 4 w) :: answers.map Input.core } = .next u ∧
      (w = 1#32 ∨ w = 2#32 → u.status.busy = true ∧ u.status.done = false) ∧
      Reaches u t ∧ t.phase = .idle ∧ t.status.busy = false ∧ t.status.done = true

/-- R50, R162: what a command does depends only on its ports' answers, MAGIC and WB: two idle machines that agree on those, and
in nothing else, look the same to every observer at every step from a written command word on. -/
def Obligations.NothingOfAnEarlierCommandIsRead : Prop :=
  ∀ (s u : State) (w : Word) (rest : List Input), Inv s → Inv u → s.phase = .idle → u.phase = .idle →
    s.hostTurn (.regWrite 0x0 4 w) rest → u.inputs = s.inputs →
    u.magic = s.magic → u.wb = s.wb → u.inp = s.inp → u.out = s.out → u.aliased = s.aliased →
    u.hostData = s.hostData → u.freeIdx = s.freeIdx →
    ∀ k, outcomeView (runs (k + 1) s) = outcomeView (runs (k + 1) u)
end

