-- ==== Sys2Proof/Laws/State.lean ====
section
/-! SUPPORT. One lemma per field per named update of State, so that no later proof unfolds an update. -/
namespace Sys2Proof.Machine

variable (s : State)

/-! ### State.turn -/

@[simp] theorem turn_magic : s.turn.magic = s.magic := by
  unfold State.turn; split <;> rfl
@[simp] theorem turn_wb : s.turn.wb = s.wb := by
  unfold State.turn; split <;> rfl
@[simp] theorem turn_status : s.turn.status = s.status := by
  unfold State.turn; split <;> rfl
@[simp] theorem turn_errinfo : s.turn.errinfo = s.errinfo := by
  unfold State.turn; split <;> rfl
@[simp] theorem turn_op : s.turn.op = s.op := by
  unfold State.turn; split <;> rfl
@[simp] theorem turn_phase : s.turn.phase = s.phase := by
  unfold State.turn; split <;> rfl
@[simp] theorem turn_pending : s.turn.pending = s.pending := by
  unfold State.turn; split <;> rfl
@[simp] theorem turn_total : s.turn.total = s.total := by
  unfold State.turn; split <;> rfl
@[simp] theorem turn_nnodes : s.turn.nnodes = s.nnodes := by
  unfold State.turn; split <;> rfl
@[simp] theorem turn_root : s.turn.root = s.root := by
  unfold State.turn; split <;> rfl
@[simp] theorem turn_cur : s.turn.cur = s.cur := by
  unfold State.turn; split <;> rfl
@[simp] theorem turn_freq : s.turn.freq = s.freq := by
  unfold State.turn; split <;> rfl
@[simp] theorem turn_node : s.turn.node = s.node := by
  unfold State.turn; split <;> rfl
@[simp] theorem turn_q : s.turn.q = s.q := by
  unfold State.turn; split <;> rfl
@[simp] theorem turn_code : s.turn.code = s.code := by
  unfold State.turn; split <;> rfl
@[simp] theorem turn_hstack : s.turn.hstack = s.hstack := by
  unfold State.turn; split <;> rfl
@[simp] theorem turn_inp : s.turn.inp = s.inp := by
  unfold State.turn; split <;> rfl
@[simp] theorem turn_out : s.turn.out = s.out := by
  unfold State.turn; split <;> rfl
@[simp] theorem turn_aliased : s.turn.aliased = s.aliased := by
  unfold State.turn; split <;> rfl
@[simp] theorem turn_hostData : s.turn.hostData = s.hostData := by
  unfold State.turn; split <;> rfl
@[simp] theorem turn_trace : s.turn.trace = s.trace := by
  unfold State.turn; split <;> rfl
@[simp] theorem turn_freeIdx : s.turn.freeIdx = s.freeIdx := by
  unfold State.turn; split <;> rfl

/-! ### State.record -/

@[simp] theorem record_magic (t : Transaction) : (s.record t).magic = s.magic := rfl
@[simp] theorem record_wb (t : Transaction) : (s.record t).wb = s.wb := rfl
@[simp] theorem record_status (t : Transaction) : (s.record t).status = s.status := rfl
@[simp] theorem record_errinfo (t : Transaction) : (s.record t).errinfo = s.errinfo := rfl
@[simp] theorem record_op (t : Transaction) : (s.record t).op = s.op := rfl
@[simp] theorem record_phase (t : Transaction) : (s.record t).phase = s.phase := rfl
@[simp] theorem record_pending (t : Transaction) : (s.record t).pending = s.pending := rfl
@[simp] theorem record_total (t : Transaction) : (s.record t).total = s.total := rfl
@[simp] theorem record_nnodes (t : Transaction) : (s.record t).nnodes = s.nnodes := rfl
@[simp] theorem record_root (t : Transaction) : (s.record t).root = s.root := rfl
@[simp] theorem record_cur (t : Transaction) : (s.record t).cur = s.cur := rfl
@[simp] theorem record_freq (t : Transaction) : (s.record t).freq = s.freq := rfl
@[simp] theorem record_node (t : Transaction) : (s.record t).node = s.node := rfl
@[simp] theorem record_q (t : Transaction) : (s.record t).q = s.q := rfl
@[simp] theorem record_code (t : Transaction) : (s.record t).code = s.code := rfl
@[simp] theorem record_hstack (t : Transaction) : (s.record t).hstack = s.hstack := rfl
@[simp] theorem record_inp (t : Transaction) : (s.record t).inp = s.inp := rfl
@[simp] theorem record_out (t : Transaction) : (s.record t).out = s.out := rfl
@[simp] theorem record_aliased (t : Transaction) : (s.record t).aliased = s.aliased := rfl
@[simp] theorem record_inputs (t : Transaction) : (s.record t).inputs = s.inputs := rfl
@[simp] theorem record_hostData (t : Transaction) : (s.record t).hostData = s.hostData := rfl
@[simp] theorem record_trace (t : Transaction) : (s.record t).trace = s.trace ++ [t] := rfl
@[simp] theorem record_freeIdx (t : Transaction) : (s.record t).freeIdx = s.freeIdx := rfl

/-! ### State.setNode -/

@[simp] theorem setNode_magic (i : NodeIdx) (e : NodeEntry) : (s.setNode i e).magic = s.magic := rfl
@[simp] theorem setNode_wb (i : NodeIdx) (e : NodeEntry) : (s.setNode i e).wb = s.wb := rfl
@[simp] theorem setNode_status (i : NodeIdx) (e : NodeEntry) : (s.setNode i e).status = s.status := rfl
@[simp] theorem setNode_errinfo (i : NodeIdx) (e : NodeEntry) : (s.setNode i e).errinfo = s.errinfo := rfl
@[simp] theorem setNode_op (i : NodeIdx) (e : NodeEntry) : (s.setNode i e).op = s.op := rfl
@[simp] theorem setNode_phase (i : NodeIdx) (e : NodeEntry) : (s.setNode i e).phase = s.phase := rfl
@[simp] theorem setNode_pending (i : NodeIdx) (e : NodeEntry) : (s.setNode i e).pending = s.pending := rfl
@[simp] theorem setNode_total (i : NodeIdx) (e : NodeEntry) : (s.setNode i e).total = s.total := rfl
@[simp] theorem setNode_nnodes (i : NodeIdx) (e : NodeEntry) : (s.setNode i e).nnodes = s.nnodes := rfl
@[simp] theorem setNode_root (i : NodeIdx) (e : NodeEntry) : (s.setNode i e).root = s.root := rfl
@[simp] theorem setNode_cur (i : NodeIdx) (e : NodeEntry) : (s.setNode i e).cur = s.cur := rfl
@[simp] theorem setNode_freq (i : NodeIdx) (e : NodeEntry) : (s.setNode i e).freq = s.freq := rfl
@[simp] theorem setNode_node (i : NodeIdx) (e : NodeEntry) : (s.setNode i e).node = s.node.set i.val e := rfl
@[simp] theorem setNode_q (i : NodeIdx) (e : NodeEntry) : (s.setNode i e).q = s.q := rfl
@[simp] theorem setNode_code (i : NodeIdx) (e : NodeEntry) : (s.setNode i e).code = s.code := rfl
@[simp] theorem setNode_hstack (i : NodeIdx) (e : NodeEntry) : (s.setNode i e).hstack = s.hstack := rfl
@[simp] theorem setNode_inp (i : NodeIdx) (e : NodeEntry) : (s.setNode i e).inp = s.inp := rfl
@[simp] theorem setNode_out (i : NodeIdx) (e : NodeEntry) : (s.setNode i e).out = s.out := rfl
@[simp] theorem setNode_aliased (i : NodeIdx) (e : NodeEntry) : (s.setNode i e).aliased = s.aliased := rfl
@[simp] theorem setNode_inputs (i : NodeIdx) (e : NodeEntry) : (s.setNode i e).inputs = s.inputs := rfl
@[simp] theorem setNode_hostData (i : NodeIdx) (e : NodeEntry) : (s.setNode i e).hostData = s.hostData := rfl
@[simp] theorem setNode_trace (i : NodeIdx) (e : NodeEntry) : (s.setNode i e).trace = s.trace := rfl
@[simp] theorem setNode_freeIdx (i : NodeIdx) (e : NodeEntry) : (s.setNode i e).freeIdx = s.freeIdx := rfl

/-! ### State.setLeaf -/

@[simp] theorem setLeaf_magic (i : NodeIdx) (sym : Symbol) (w : Nat) : (s.setLeaf i sym w).magic = s.magic := rfl
@[simp] theorem setLeaf_wb (i : NodeIdx) (sym : Symbol) (w : Nat) : (s.setLeaf i sym w).wb = s.wb := rfl
@[simp] theorem setLeaf_status (i : NodeIdx) (sym : Symbol) (w : Nat) : (s.setLeaf i sym w).status = s.status := rfl
@[simp] theorem setLeaf_errinfo (i : NodeIdx) (sym : Symbol) (w : Nat) : (s.setLeaf i sym w).errinfo = s.errinfo := rfl
@[simp] theorem setLeaf_op (i : NodeIdx) (sym : Symbol) (w : Nat) : (s.setLeaf i sym w).op = s.op := rfl
@[simp] theorem setLeaf_phase (i : NodeIdx) (sym : Symbol) (w : Nat) : (s.setLeaf i sym w).phase = s.phase := rfl
@[simp] theorem setLeaf_pending (i : NodeIdx) (sym : Symbol) (w : Nat) : (s.setLeaf i sym w).pending = s.pending := rfl
@[simp] theorem setLeaf_total (i : NodeIdx) (sym : Symbol) (w : Nat) : (s.setLeaf i sym w).total = s.total := rfl
@[simp] theorem setLeaf_nnodes (i : NodeIdx) (sym : Symbol) (w : Nat) : (s.setLeaf i sym w).nnodes = s.nnodes := rfl
@[simp] theorem setLeaf_root (i : NodeIdx) (sym : Symbol) (w : Nat) : (s.setLeaf i sym w).root = s.root := rfl
@[simp] theorem setLeaf_cur (i : NodeIdx) (sym : Symbol) (w : Nat) : (s.setLeaf i sym w).cur = s.cur := rfl
@[simp] theorem setLeaf_freq (i : NodeIdx) (sym : Symbol) (w : Nat) : (s.setLeaf i sym w).freq = s.freq := rfl
@[simp] theorem setLeaf_node (i : NodeIdx) (sym : Symbol) (w : Nat) : (s.setLeaf i sym w).node = s.node.set i.val { s.nodeAt i with isLeaf := true, sym := sym, w := w } := rfl
@[simp] theorem setLeaf_q (i : NodeIdx) (sym : Symbol) (w : Nat) : (s.setLeaf i sym w).q = s.q := rfl
@[simp] theorem setLeaf_code (i : NodeIdx) (sym : Symbol) (w : Nat) : (s.setLeaf i sym w).code = s.code := rfl
@[simp] theorem setLeaf_hstack (i : NodeIdx) (sym : Symbol) (w : Nat) : (s.setLeaf i sym w).hstack = s.hstack := rfl
@[simp] theorem setLeaf_inp (i : NodeIdx) (sym : Symbol) (w : Nat) : (s.setLeaf i sym w).inp = s.inp := rfl
@[simp] theorem setLeaf_out (i : NodeIdx) (sym : Symbol) (w : Nat) : (s.setLeaf i sym w).out = s.out := rfl
@[simp] theorem setLeaf_aliased (i : NodeIdx) (sym : Symbol) (w : Nat) : (s.setLeaf i sym w).aliased = s.aliased := rfl
@[simp] theorem setLeaf_inputs (i : NodeIdx) (sym : Symbol) (w : Nat) : (s.setLeaf i sym w).inputs = s.inputs := rfl
@[simp] theorem setLeaf_hostData (i : NodeIdx) (sym : Symbol) (w : Nat) : (s.setLeaf i sym w).hostData = s.hostData := rfl
@[simp] theorem setLeaf_trace (i : NodeIdx) (sym : Symbol) (w : Nat) : (s.setLeaf i sym w).trace = s.trace := rfl
@[simp] theorem setLeaf_freeIdx (i : NodeIdx) (sym : Symbol) (w : Nat) : (s.setLeaf i sym w).freeIdx = s.freeIdx := rfl

/-! ### raise -/

@[simp] theorem raise_magic (e : ErrCode) (info : Word) : (raise e info s).magic = s.magic := rfl
@[simp] theorem raise_wb (e : ErrCode) (info : Word) : (raise e info s).wb = s.wb := rfl
@[simp] theorem raise_status (e : ErrCode) (info : Word) : (raise e info s).status = s.status.withError e := rfl
@[simp] theorem raise_errinfo (e : ErrCode) (info : Word) : (raise e info s).errinfo = info := rfl
@[simp] theorem raise_op (e : ErrCode) (info : Word) : (raise e info s).op = s.op := rfl
@[simp] theorem raise_phase (e : ErrCode) (info : Word) : (raise e info s).phase = .close := rfl
@[simp] theorem raise_pending (e : ErrCode) (info : Word) : (raise e info s).pending = .top := rfl
@[simp] theorem raise_total (e : ErrCode) (info : Word) : (raise e info s).total = s.total := rfl
@[simp] theorem raise_nnodes (e : ErrCode) (info : Word) : (raise e info s).nnodes = s.nnodes := rfl
@[simp] theorem raise_root (e : ErrCode) (info : Word) : (raise e info s).root = s.root := rfl
@[simp] theorem raise_cur (e : ErrCode) (info : Word) : (raise e info s).cur = s.cur := rfl
@[simp] theorem raise_freq (e : ErrCode) (info : Word) : (raise e info s).freq = s.freq := rfl
@[simp] theorem raise_node (e : ErrCode) (info : Word) : (raise e info s).node = s.node := rfl
@[simp] theorem raise_q (e : ErrCode) (info : Word) : (raise e info s).q = s.q := rfl
@[simp] theorem raise_code (e : ErrCode) (info : Word) : (raise e info s).code = s.code := rfl
@[simp] theorem raise_hstack (e : ErrCode) (info : Word) : (raise e info s).hstack = s.hstack := rfl
@[simp] theorem raise_inp (e : ErrCode) (info : Word) : (raise e info s).inp = s.inp := rfl
@[simp] theorem raise_out (e : ErrCode) (info : Word) : (raise e info s).out = s.out := rfl
@[simp] theorem raise_aliased (e : ErrCode) (info : Word) : (raise e info s).aliased = s.aliased := rfl
@[simp] theorem raise_inputs (e : ErrCode) (info : Word) : (raise e info s).inputs = s.inputs := rfl
@[simp] theorem raise_hostData (e : ErrCode) (info : Word) : (raise e info s).hostData = s.hostData := rfl
@[simp] theorem raise_trace (e : ErrCode) (info : Word) : (raise e info s).trace = s.trace := rfl
@[simp] theorem raise_freeIdx (e : ErrCode) (info : Word) : (raise e info s).freeIdx = s.freeIdx := rfl

/-! ### accept -/

@[simp] theorem accept_magic (o : Op) : (accept o s).magic = s.magic := rfl
@[simp] theorem accept_wb (o : Op) : (accept o s).wb = s.wb := rfl
@[simp] theorem accept_status (o : Op) : (accept o s).status = Status.accepted := rfl
@[simp] theorem accept_errinfo (o : Op) : (accept o s).errinfo = 0#32 := rfl
@[simp] theorem accept_op (o : Op) : (accept o s).op = o := rfl
@[simp] theorem accept_phase (o : Op) : (accept o s).phase = s.phase := rfl
@[simp] theorem accept_pending (o : Op) : (accept o s).pending = s.pending := rfl
@[simp] theorem accept_total (o : Op) : (accept o s).total = s.total := rfl
@[simp] theorem accept_nnodes (o : Op) : (accept o s).nnodes = s.nnodes := rfl
@[simp] theorem accept_root (o : Op) : (accept o s).root = s.root := rfl
@[simp] theorem accept_cur (o : Op) : (accept o s).cur = s.cur := rfl
@[simp] theorem accept_freq (o : Op) : (accept o s).freq = s.freq := rfl
@[simp] theorem accept_node (o : Op) : (accept o s).node = s.node := rfl
@[simp] theorem accept_q (o : Op) : (accept o s).q = s.q := rfl
@[simp] theorem accept_code (o : Op) : (accept o s).code = s.code := rfl
@[simp] theorem accept_hstack (o : Op) : (accept o s).hstack = s.hstack := rfl
@[simp] theorem accept_inp (o : Op) : (accept o s).inp = s.inp := rfl
@[simp] theorem accept_out (o : Op) : (accept o s).out = { s.out with ob := [] } := rfl
@[simp] theorem accept_aliased (o : Op) : (accept o s).aliased = s.aliased := rfl
@[simp] theorem accept_inputs (o : Op) : (accept o s).inputs = s.inputs := rfl
@[simp] theorem accept_hostData (o : Op) : (accept o s).hostData = s.hostData := rfl
@[simp] theorem accept_trace (o : Op) : (accept o s).trace = [] := rfl
@[simp] theorem accept_freeIdx (o : Op) : (accept o s).freeIdx = s.freeIdx := rfl

/-! ### startCount -/

@[simp] theorem startCount_magic : (startCount s).magic = s.magic := rfl
@[simp] theorem startCount_wb : (startCount s).wb = s.wb := rfl
@[simp] theorem startCount_status : (startCount s).status = s.status := rfl
@[simp] theorem startCount_errinfo : (startCount s).errinfo = s.errinfo := rfl
@[simp] theorem startCount_op : (startCount s).op = s.op := rfl
@[simp] theorem startCount_phase : (startCount s).phase = .count := rfl
@[simp] theorem startCount_pending : (startCount s).pending = .top := rfl
@[simp] theorem startCount_total : (startCount s).total = 0 := rfl
@[simp] theorem startCount_nnodes : (startCount s).nnodes = s.nnodes := rfl
@[simp] theorem startCount_root : (startCount s).root = s.root := rfl
@[simp] theorem startCount_cur : (startCount s).cur = s.cur := rfl
@[simp] theorem startCount_freq : (startCount s).freq = Vector.replicate 256 0 := rfl
@[simp] theorem startCount_node : (startCount s).node = s.node := rfl
@[simp] theorem startCount_q : (startCount s).q = s.q := rfl
@[simp] theorem startCount_code : (startCount s).code = s.code := rfl
@[simp] theorem startCount_hstack : (startCount s).hstack = s.hstack := rfl
@[simp] theorem startCount_inp : (startCount s).inp = s.inp := rfl
@[simp] theorem startCount_out : (startCount s).out = s.out := rfl
@[simp] theorem startCount_aliased : (startCount s).aliased = s.aliased := rfl
@[simp] theorem startCount_inputs : (startCount s).inputs = s.inputs := rfl
@[simp] theorem startCount_hostData : (startCount s).hostData = s.hostData := rfl
@[simp] theorem startCount_trace : (startCount s).trace = s.trace := rfl
@[simp] theorem startCount_freeIdx : (startCount s).freeIdx = s.freeIdx := rfl

/-! ### countByte -/

@[simp] theorem countByte_magic (b : Byte) : (countByte b s).magic = s.magic := rfl
@[simp] theorem countByte_wb (b : Byte) : (countByte b s).wb = s.wb := rfl
@[simp] theorem countByte_status (b : Byte) : (countByte b s).status = s.status := rfl
@[simp] theorem countByte_errinfo (b : Byte) : (countByte b s).errinfo = s.errinfo := rfl
@[simp] theorem countByte_op (b : Byte) : (countByte b s).op = s.op := rfl
@[simp] theorem countByte_phase (b : Byte) : (countByte b s).phase = s.phase := rfl
@[simp] theorem countByte_pending (b : Byte) : (countByte b s).pending = s.pending := rfl
@[simp] theorem countByte_total (b : Byte) : (countByte b s).total = s.total + 1 := rfl
@[simp] theorem countByte_nnodes (b : Byte) : (countByte b s).nnodes = s.nnodes := rfl
@[simp] theorem countByte_root (b : Byte) : (countByte b s).root = s.root := rfl
@[simp] theorem countByte_cur (b : Byte) : (countByte b s).cur = s.cur := rfl
@[simp] theorem countByte_freq (b : Byte) : (countByte b s).freq = s.freq.set b.toNat (s.freq[b.toNat] + 1) b.isLt := rfl
@[simp] theorem countByte_node (b : Byte) : (countByte b s).node = s.node := rfl
@[simp] theorem countByte_q (b : Byte) : (countByte b s).q = s.q := rfl
@[simp] theorem countByte_code (b : Byte) : (countByte b s).code = s.code := rfl
@[simp] theorem countByte_hstack (b : Byte) : (countByte b s).hstack = s.hstack := rfl
@[simp] theorem countByte_inp (b : Byte) : (countByte b s).inp = s.inp := rfl
@[simp] theorem countByte_out (b : Byte) : (countByte b s).out = s.out := rfl
@[simp] theorem countByte_aliased (b : Byte) : (countByte b s).aliased = s.aliased := rfl
@[simp] theorem countByte_inputs (b : Byte) : (countByte b s).inputs = s.inputs := rfl
@[simp] theorem countByte_hostData (b : Byte) : (countByte b s).hostData = s.hostData := rfl
@[simp] theorem countByte_trace (b : Byte) : (countByte b s).trace = s.trace := rfl
@[simp] theorem countByte_freeIdx (b : Byte) : (countByte b s).freeIdx = s.freeIdx := rfl

/-! ### startGencodes -/

@[simp] theorem startGencodes_magic : (startGencodes s).magic = s.magic := rfl
@[simp] theorem startGencodes_wb : (startGencodes s).wb = s.wb := rfl
@[simp] theorem startGencodes_status : (startGencodes s).status = s.status := rfl
@[simp] theorem startGencodes_errinfo : (startGencodes s).errinfo = s.errinfo := rfl
@[simp] theorem startGencodes_op : (startGencodes s).op = s.op := rfl
@[simp] theorem startGencodes_phase : (startGencodes s).phase = .gencodes := rfl
@[simp] theorem startGencodes_pending : (startGencodes s).pending = s.pending := rfl
@[simp] theorem startGencodes_total : (startGencodes s).total = s.total := rfl
@[simp] theorem startGencodes_nnodes : (startGencodes s).nnodes = s.nnodes := rfl
@[simp] theorem startGencodes_root : (startGencodes s).root = s.root := rfl
@[simp] theorem startGencodes_cur : (startGencodes s).cur = s.cur := rfl
@[simp] theorem startGencodes_freq : (startGencodes s).freq = s.freq := rfl
@[simp] theorem startGencodes_node : (startGencodes s).node = s.node := rfl
@[simp] theorem startGencodes_q : (startGencodes s).q = s.q := rfl
@[simp] theorem startGencodes_code : (startGencodes s).code = Vector.replicate 257 CodeEntry.zero := rfl
@[simp] theorem startGencodes_hstack : (startGencodes s).hstack = s.hstack := rfl
@[simp] theorem startGencodes_inp : (startGencodes s).inp = s.inp := rfl
@[simp] theorem startGencodes_out : (startGencodes s).out = s.out := rfl
@[simp] theorem startGencodes_aliased : (startGencodes s).aliased = s.aliased := rfl
@[simp] theorem startGencodes_inputs : (startGencodes s).inputs = s.inputs := rfl
@[simp] theorem startGencodes_hostData : (startGencodes s).hostData = s.hostData := rfl
@[simp] theorem startGencodes_trace : (startGencodes s).trace = s.trace := rfl
@[simp] theorem startGencodes_freeIdx : (startGencodes s).freeIdx = s.freeIdx := rfl

/-! ### startWriteHeader -/

@[simp] theorem startWriteHeader_magic : (startWriteHeader s).magic = s.magic := rfl
@[simp] theorem startWriteHeader_wb : (startWriteHeader s).wb = s.wb := rfl
@[simp] theorem startWriteHeader_status : (startWriteHeader s).status = s.status := rfl
@[simp] theorem startWriteHeader_errinfo : (startWriteHeader s).errinfo = s.errinfo := rfl
@[simp] theorem startWriteHeader_op : (startWriteHeader s).op = s.op := rfl
@[simp] theorem startWriteHeader_phase : (startWriteHeader s).phase = .wheader := rfl
@[simp] theorem startWriteHeader_pending : (startWriteHeader s).pending = .top := rfl
@[simp] theorem startWriteHeader_total : (startWriteHeader s).total = s.total := rfl
@[simp] theorem startWriteHeader_nnodes : (startWriteHeader s).nnodes = s.nnodes := rfl
@[simp] theorem startWriteHeader_root : (startWriteHeader s).root = s.root := rfl
@[simp] theorem startWriteHeader_cur : (startWriteHeader s).cur = s.cur := rfl
@[simp] theorem startWriteHeader_freq : (startWriteHeader s).freq = s.freq := rfl
@[simp] theorem startWriteHeader_node : (startWriteHeader s).node = s.node := rfl
@[simp] theorem startWriteHeader_q : (startWriteHeader s).q = s.q := rfl
@[simp] theorem startWriteHeader_code : (startWriteHeader s).code = s.code := rfl
@[simp] theorem startWriteHeader_hstack : (startWriteHeader s).hstack = [{ node := s.root, side := false }] := rfl
@[simp] theorem startWriteHeader_inp : (startWriteHeader s).inp = s.inp := rfl
@[simp] theorem startWriteHeader_out : (startWriteHeader s).out = s.out := rfl
@[simp] theorem startWriteHeader_aliased : (startWriteHeader s).aliased = s.aliased := rfl
@[simp] theorem startWriteHeader_inputs : (startWriteHeader s).inputs = s.inputs := rfl
@[simp] theorem startWriteHeader_hostData : (startWriteHeader s).hostData = s.hostData := rfl
@[simp] theorem startWriteHeader_trace : (startWriteHeader s).trace = s.trace := rfl
@[simp] theorem startWriteHeader_freeIdx : (startWriteHeader s).freeIdx = s.freeIdx := rfl

/-! ### headerWritten -/

@[simp] theorem headerWritten_magic (rest : List Frame) : (headerWritten rest s).magic = s.magic := rfl
@[simp] theorem headerWritten_wb (rest : List Frame) : (headerWritten rest s).wb = s.wb := rfl
@[simp] theorem headerWritten_status (rest : List Frame) : (headerWritten rest s).status = s.status := rfl
@[simp] theorem headerWritten_errinfo (rest : List Frame) : (headerWritten rest s).errinfo = s.errinfo := rfl
@[simp] theorem headerWritten_op (rest : List Frame) : (headerWritten rest s).op = s.op := rfl
@[simp] theorem headerWritten_phase (rest : List Frame) : (headerWritten rest s).phase = if rest.isEmpty then .rewind else .wheader := rfl
@[simp] theorem headerWritten_pending (rest : List Frame) : (headerWritten rest s).pending = .top := rfl
@[simp] theorem headerWritten_total (rest : List Frame) : (headerWritten rest s).total = s.total := rfl
@[simp] theorem headerWritten_nnodes (rest : List Frame) : (headerWritten rest s).nnodes = s.nnodes := rfl
@[simp] theorem headerWritten_root (rest : List Frame) : (headerWritten rest s).root = s.root := rfl
@[simp] theorem headerWritten_cur (rest : List Frame) : (headerWritten rest s).cur = s.cur := rfl
@[simp] theorem headerWritten_freq (rest : List Frame) : (headerWritten rest s).freq = s.freq := rfl
@[simp] theorem headerWritten_node (rest : List Frame) : (headerWritten rest s).node = s.node := rfl
@[simp] theorem headerWritten_q (rest : List Frame) : (headerWritten rest s).q = s.q := rfl
@[simp] theorem headerWritten_code (rest : List Frame) : (headerWritten rest s).code = s.code := rfl
@[simp] theorem headerWritten_hstack (rest : List Frame) : (headerWritten rest s).hstack = rest := rfl
@[simp] theorem headerWritten_inp (rest : List Frame) : (headerWritten rest s).inp = s.inp := rfl
@[simp] theorem headerWritten_out (rest : List Frame) : (headerWritten rest s).out = s.out := rfl
@[simp] theorem headerWritten_aliased (rest : List Frame) : (headerWritten rest s).aliased = s.aliased := rfl
@[simp] theorem headerWritten_inputs (rest : List Frame) : (headerWritten rest s).inputs = s.inputs := rfl
@[simp] theorem headerWritten_hostData (rest : List Frame) : (headerWritten rest s).hostData = s.hostData := rfl
@[simp] theorem headerWritten_trace (rest : List Frame) : (headerWritten rest s).trace = s.trace := rfl
@[simp] theorem headerWritten_freeIdx (rest : List Frame) : (headerWritten rest s).freeIdx = s.freeIdx := rfl

/-! ### startReadMagic -/

@[simp] theorem startReadMagic_magic : (startReadMagic s).magic = s.magic := rfl
@[simp] theorem startReadMagic_wb : (startReadMagic s).wb = s.wb := rfl
@[simp] theorem startReadMagic_status : (startReadMagic s).status = s.status := rfl
@[simp] theorem startReadMagic_errinfo : (startReadMagic s).errinfo = s.errinfo := rfl
@[simp] theorem startReadMagic_op : (startReadMagic s).op = s.op := rfl
@[simp] theorem startReadMagic_phase : (startReadMagic s).phase = .rmagic := rfl
@[simp] theorem startReadMagic_pending : (startReadMagic s).pending = .top := rfl
@[simp] theorem startReadMagic_total : (startReadMagic s).total = s.total := rfl
@[simp] theorem startReadMagic_nnodes : (startReadMagic s).nnodes = s.nnodes := rfl
@[simp] theorem startReadMagic_root : (startReadMagic s).root = s.root := rfl
@[simp] theorem startReadMagic_cur : (startReadMagic s).cur = s.cur := rfl
@[simp] theorem startReadMagic_freq : (startReadMagic s).freq = s.freq := rfl
@[simp] theorem startReadMagic_node : (startReadMagic s).node = s.node := rfl
@[simp] theorem startReadMagic_q : (startReadMagic s).q = s.q := rfl
@[simp] theorem startReadMagic_code : (startReadMagic s).code = s.code := rfl
@[simp] theorem startReadMagic_hstack : (startReadMagic s).hstack = s.hstack := rfl
@[simp] theorem startReadMagic_inp : (startReadMagic s).inp = s.inp := rfl
@[simp] theorem startReadMagic_out : (startReadMagic s).out = s.out := rfl
@[simp] theorem startReadMagic_aliased : (startReadMagic s).aliased = s.aliased := rfl
@[simp] theorem startReadMagic_inputs : (startReadMagic s).inputs = s.inputs := rfl
@[simp] theorem startReadMagic_hostData : (startReadMagic s).hostData = s.hostData := rfl
@[simp] theorem startReadMagic_trace : (startReadMagic s).trace = s.trace := rfl
@[simp] theorem startReadMagic_freeIdx : (startReadMagic s).freeIdx = s.freeIdx := rfl

/-! ### startReadHeader -/

@[simp] theorem startReadHeader_magic : (startReadHeader s).magic = s.magic := rfl
@[simp] theorem startReadHeader_wb : (startReadHeader s).wb = s.wb := rfl
@[simp] theorem startReadHeader_status : (startReadHeader s).status = s.status := rfl
@[simp] theorem startReadHeader_errinfo : (startReadHeader s).errinfo = s.errinfo := rfl
@[simp] theorem startReadHeader_op : (startReadHeader s).op = s.op := rfl
@[simp] theorem startReadHeader_phase : (startReadHeader s).phase = .rheader := rfl
@[simp] theorem startReadHeader_pending : (startReadHeader s).pending = .top := rfl
@[simp] theorem startReadHeader_total : (startReadHeader s).total = s.total := rfl
@[simp] theorem startReadHeader_nnodes : (startReadHeader s).nnodes = 0 := rfl
@[simp] theorem startReadHeader_root : (startReadHeader s).root = s.root := rfl
@[simp] theorem startReadHeader_cur : (startReadHeader s).cur = s.cur := rfl
@[simp] theorem startReadHeader_freq : (startReadHeader s).freq = s.freq := rfl
@[simp] theorem startReadHeader_node : (startReadHeader s).node = s.node := rfl
@[simp] theorem startReadHeader_q : (startReadHeader s).q = s.q := rfl
@[simp] theorem startReadHeader_code : (startReadHeader s).code = s.code := rfl
@[simp] theorem startReadHeader_hstack : (startReadHeader s).hstack = [] := rfl
@[simp] theorem startReadHeader_inp : (startReadHeader s).inp = s.inp := rfl
@[simp] theorem startReadHeader_out : (startReadHeader s).out = s.out := rfl
@[simp] theorem startReadHeader_aliased : (startReadHeader s).aliased = s.aliased := rfl
@[simp] theorem startReadHeader_inputs : (startReadHeader s).inputs = s.inputs := rfl
@[simp] theorem startReadHeader_hostData : (startReadHeader s).hostData = s.hostData := rfl
@[simp] theorem startReadHeader_trace : (startReadHeader s).trace = s.trace := rfl
@[simp] theorem startReadHeader_freeIdx : (startReadHeader s).freeIdx = s.freeIdx := rfl

/-! ### startDecode -/

@[simp] theorem startDecode_magic : (startDecode s).magic = s.magic := rfl
@[simp] theorem startDecode_wb : (startDecode s).wb = s.wb := rfl
@[simp] theorem startDecode_status : (startDecode s).status = s.status := rfl
@[simp] theorem startDecode_errinfo : (startDecode s).errinfo = s.errinfo := rfl
@[simp] theorem startDecode_op : (startDecode s).op = s.op := rfl
@[simp] theorem startDecode_phase : (startDecode s).phase = .decode := rfl
@[simp] theorem startDecode_pending : (startDecode s).pending = .top := rfl
@[simp] theorem startDecode_total : (startDecode s).total = s.total := rfl
@[simp] theorem startDecode_nnodes : (startDecode s).nnodes = s.nnodes := rfl
@[simp] theorem startDecode_root : (startDecode s).root = s.root := rfl
@[simp] theorem startDecode_cur : (startDecode s).cur = s.root := rfl
@[simp] theorem startDecode_freq : (startDecode s).freq = s.freq := rfl
@[simp] theorem startDecode_node : (startDecode s).node = s.node := rfl
@[simp] theorem startDecode_q : (startDecode s).q = s.q := rfl
@[simp] theorem startDecode_code : (startDecode s).code = s.code := rfl
@[simp] theorem startDecode_hstack : (startDecode s).hstack = s.hstack := rfl
@[simp] theorem startDecode_inp : (startDecode s).inp = s.inp := rfl
@[simp] theorem startDecode_out : (startDecode s).out = s.out := rfl
@[simp] theorem startDecode_aliased : (startDecode s).aliased = s.aliased := rfl
@[simp] theorem startDecode_inputs : (startDecode s).inputs = s.inputs := rfl
@[simp] theorem startDecode_hostData : (startDecode s).hostData = s.hostData := rfl
@[simp] theorem startDecode_trace : (startDecode s).trace = s.trace := rfl
@[simp] theorem startDecode_freeIdx : (startDecode s).freeIdx = s.freeIdx := rfl

end Sys2Proof.Machine
end

