-- ==== Sys2Proof/Laws/After.lean ====
section
/-! SUPPORT. One lemma per field of the states after an answered transaction, and after the reset event. -/
namespace Sys2Proof.Machine

variable (s : State) (n v : Nat)

/-! ### afterRead -/

@[simp] theorem afterRead_magic : (s.afterRead n).magic = s.magic := by
  simp [State.afterRead, State.record]
@[simp] theorem afterRead_wb : (s.afterRead n).wb = s.wb := by
  simp [State.afterRead, State.record]
@[simp] theorem afterRead_status : (s.afterRead n).status = s.status := by
  simp [State.afterRead, State.record]
@[simp] theorem afterRead_errinfo : (s.afterRead n).errinfo = s.errinfo := by
  simp [State.afterRead, State.record]
@[simp] theorem afterRead_op : (s.afterRead n).op = s.op := by
  simp [State.afterRead, State.record]
@[simp] theorem afterRead_phase : (s.afterRead n).phase = s.phase := by
  simp [State.afterRead, State.record]
@[simp] theorem afterRead_pending : (s.afterRead n).pending = s.pending := by
  simp [State.afterRead, State.record]
@[simp] theorem afterRead_total : (s.afterRead n).total = s.total := by
  simp [State.afterRead, State.record]
@[simp] theorem afterRead_nnodes : (s.afterRead n).nnodes = s.nnodes := by
  simp [State.afterRead, State.record]
@[simp] theorem afterRead_root : (s.afterRead n).root = s.root := by
  simp [State.afterRead, State.record]
@[simp] theorem afterRead_cur : (s.afterRead n).cur = s.cur := by
  simp [State.afterRead, State.record]
@[simp] theorem afterRead_freq : (s.afterRead n).freq = s.freq := by
  simp [State.afterRead, State.record]
@[simp] theorem afterRead_node : (s.afterRead n).node = s.node := by
  simp [State.afterRead, State.record]
@[simp] theorem afterRead_q : (s.afterRead n).q = s.q := by
  simp [State.afterRead, State.record]
@[simp] theorem afterRead_code : (s.afterRead n).code = s.code := by
  simp [State.afterRead, State.record]
@[simp] theorem afterRead_hstack : (s.afterRead n).hstack = s.hstack := by
  simp [State.afterRead, State.record]
@[simp] theorem afterRead_inp : (s.afterRead n).inp = { s.inp with ic := s.inp.ic + n } := by
  simp [State.afterRead, State.record]
@[simp] theorem afterRead_out : (s.afterRead n).out = s.out := by
  simp [State.afterRead, State.record]
@[simp] theorem afterRead_aliased : (s.afterRead n).aliased = s.aliased := by
  simp [State.afterRead, State.record]
@[simp] theorem afterRead_inputs : (s.afterRead n).inputs = s.turn.inputs := by
  simp [State.afterRead, State.record]
@[simp] theorem afterRead_hostData : (s.afterRead n).hostData = s.hostData := by
  simp [State.afterRead, State.record]
@[simp] theorem afterRead_trace : (s.afterRead n).trace = s.trace ++ [.inRead n (.val (s.inp.field n))] := by
  simp [State.afterRead, State.record]
@[simp] theorem afterRead_freeIdx : (s.afterRead n).freeIdx = s.freeIdx := by
  simp [State.afterRead, State.record]

/-! ### afterEoi -/

@[simp] theorem afterEoi_magic : (s.afterEoi n).magic = s.magic := by
  simp [State.afterEoi, State.record]
@[simp] theorem afterEoi_wb : (s.afterEoi n).wb = s.wb := by
  simp [State.afterEoi, State.record]
@[simp] theorem afterEoi_status : (s.afterEoi n).status = s.status := by
  simp [State.afterEoi, State.record]
@[simp] theorem afterEoi_errinfo : (s.afterEoi n).errinfo = s.errinfo := by
  simp [State.afterEoi, State.record]
@[simp] theorem afterEoi_op : (s.afterEoi n).op = s.op := by
  simp [State.afterEoi, State.record]
@[simp] theorem afterEoi_phase : (s.afterEoi n).phase = s.phase := by
  simp [State.afterEoi, State.record]
@[simp] theorem afterEoi_pending : (s.afterEoi n).pending = s.pending := by
  simp [State.afterEoi, State.record]
@[simp] theorem afterEoi_total : (s.afterEoi n).total = s.total := by
  simp [State.afterEoi, State.record]
@[simp] theorem afterEoi_nnodes : (s.afterEoi n).nnodes = s.nnodes := by
  simp [State.afterEoi, State.record]
@[simp] theorem afterEoi_root : (s.afterEoi n).root = s.root := by
  simp [State.afterEoi, State.record]
@[simp] theorem afterEoi_cur : (s.afterEoi n).cur = s.cur := by
  simp [State.afterEoi, State.record]
@[simp] theorem afterEoi_freq : (s.afterEoi n).freq = s.freq := by
  simp [State.afterEoi, State.record]
@[simp] theorem afterEoi_node : (s.afterEoi n).node = s.node := by
  simp [State.afterEoi, State.record]
@[simp] theorem afterEoi_q : (s.afterEoi n).q = s.q := by
  simp [State.afterEoi, State.record]
@[simp] theorem afterEoi_code : (s.afterEoi n).code = s.code := by
  simp [State.afterEoi, State.record]
@[simp] theorem afterEoi_hstack : (s.afterEoi n).hstack = s.hstack := by
  simp [State.afterEoi, State.record]
@[simp] theorem afterEoi_inp : (s.afterEoi n).inp = s.inp.afterEoi s.freeIdx := by
  simp [State.afterEoi, State.record]
@[simp] theorem afterEoi_out : (s.afterEoi n).out = s.out := by
  simp [State.afterEoi, State.record]
@[simp] theorem afterEoi_aliased : (s.afterEoi n).aliased = s.aliased := by
  simp [State.afterEoi, State.record]
@[simp] theorem afterEoi_inputs : (s.afterEoi n).inputs = s.turn.inputs := by
  simp [State.afterEoi, State.record]
@[simp] theorem afterEoi_hostData : (s.afterEoi n).hostData = s.hostData := by
  simp [State.afterEoi, State.record]
@[simp] theorem afterEoi_trace : (s.afterEoi n).trace = s.trace ++ [.inRead n .eoi] := by
  simp [State.afterEoi, State.record]
@[simp] theorem afterEoi_freeIdx : (s.afterEoi n).freeIdx = s.freeIdx + 1 := by
  simp [State.afterEoi, State.record]

/-! ### afterWrite -/

@[simp] theorem afterWrite_magic : (s.afterWrite n v).magic = s.magic := by
  simp [State.afterWrite, State.record]
@[simp] theorem afterWrite_wb : (s.afterWrite n v).wb = s.wb := by
  simp [State.afterWrite, State.record]
@[simp] theorem afterWrite_status : (s.afterWrite n v).status = s.status := by
  simp [State.afterWrite, State.record]
@[simp] theorem afterWrite_errinfo : (s.afterWrite n v).errinfo = s.errinfo := by
  simp [State.afterWrite, State.record]
@[simp] theorem afterWrite_op : (s.afterWrite n v).op = s.op := by
  simp [State.afterWrite, State.record]
@[simp] theorem afterWrite_phase : (s.afterWrite n v).phase = s.phase := by
  simp [State.afterWrite, State.record]
@[simp] theorem afterWrite_pending : (s.afterWrite n v).pending = s.pending := by
  simp [State.afterWrite, State.record]
@[simp] theorem afterWrite_total : (s.afterWrite n v).total = s.total := by
  simp [State.afterWrite, State.record]
@[simp] theorem afterWrite_nnodes : (s.afterWrite n v).nnodes = s.nnodes := by
  simp [State.afterWrite, State.record]
@[simp] theorem afterWrite_root : (s.afterWrite n v).root = s.root := by
  simp [State.afterWrite, State.record]
@[simp] theorem afterWrite_cur : (s.afterWrite n v).cur = s.cur := by
  simp [State.afterWrite, State.record]
@[simp] theorem afterWrite_freq : (s.afterWrite n v).freq = s.freq := by
  simp [State.afterWrite, State.record]
@[simp] theorem afterWrite_node : (s.afterWrite n v).node = s.node := by
  simp [State.afterWrite, State.record]
@[simp] theorem afterWrite_q : (s.afterWrite n v).q = s.q := by
  simp [State.afterWrite, State.record]
@[simp] theorem afterWrite_code : (s.afterWrite n v).code = s.code := by
  simp [State.afterWrite, State.record]
@[simp] theorem afterWrite_hstack : (s.afterWrite n v).hstack = s.hstack := by
  simp [State.afterWrite, State.record]
@[simp] theorem afterWrite_inp : (s.afterWrite n v).inp = s.inp := by
  simp [State.afterWrite, State.record]
@[simp] theorem afterWrite_out : (s.afterWrite n v).out = { s.out with ob := s.out.ob ++ bin n v } := by
  simp [State.afterWrite, State.record]
@[simp] theorem afterWrite_aliased : (s.afterWrite n v).aliased = s.aliased := by
  simp [State.afterWrite, State.record]
@[simp] theorem afterWrite_inputs : (s.afterWrite n v).inputs = s.turn.inputs := by
  simp [State.afterWrite, State.record]
@[simp] theorem afterWrite_hostData : (s.afterWrite n v).hostData = s.hostData := by
  simp [State.afterWrite, State.record]
@[simp] theorem afterWrite_trace : (s.afterWrite n v).trace = s.trace ++ [.outWrite n v .ok] := by
  simp [State.afterWrite, State.record]
@[simp] theorem afterWrite_freeIdx : (s.afterWrite n v).freeIdx = s.freeIdx := by
  simp [State.afterWrite, State.record]

/-! ### coreReset -/

variable (i : InPort) (o : OutPort)

@[simp] theorem coreReset_magic : (coreReset i o s).magic = s.magic := rfl
@[simp] theorem coreReset_wb : (coreReset i o s).wb = s.wb := rfl
@[simp] theorem coreReset_status : (coreReset i o s).status = State.reset.status := rfl
@[simp] theorem coreReset_errinfo : (coreReset i o s).errinfo = State.reset.errinfo := rfl
@[simp] theorem coreReset_op : (coreReset i o s).op = State.reset.op := rfl
@[simp] theorem coreReset_phase : (coreReset i o s).phase = State.reset.phase := rfl
@[simp] theorem coreReset_pending : (coreReset i o s).pending = State.reset.pending := rfl
@[simp] theorem coreReset_total : (coreReset i o s).total = State.reset.total := rfl
@[simp] theorem coreReset_nnodes : (coreReset i o s).nnodes = State.reset.nnodes := rfl
@[simp] theorem coreReset_root : (coreReset i o s).root = State.reset.root := rfl
@[simp] theorem coreReset_cur : (coreReset i o s).cur = State.reset.cur := rfl
@[simp] theorem coreReset_freq : (coreReset i o s).freq = State.reset.freq := rfl
@[simp] theorem coreReset_node : (coreReset i o s).node = State.reset.node := rfl
@[simp] theorem coreReset_q : (coreReset i o s).q = State.reset.q := rfl
@[simp] theorem coreReset_code : (coreReset i o s).code = State.reset.code := rfl
@[simp] theorem coreReset_hstack : (coreReset i o s).hstack = State.reset.hstack := rfl
@[simp] theorem coreReset_inp : (coreReset i o s).inp = if s.status.busy then i.clipped else s.inp := rfl
@[simp] theorem coreReset_out : (coreReset i o s).out = if s.status.busy then o else s.out := rfl
@[simp] theorem coreReset_aliased : (coreReset i o s).aliased = s.aliased := rfl
@[simp] theorem coreReset_inputs : (coreReset i o s).inputs = s.inputs := rfl
@[simp] theorem coreReset_hostData : (coreReset i o s).hostData = s.hostData := rfl
@[simp] theorem coreReset_trace : (coreReset i o s).trace = State.reset.trace := rfl
@[simp] theorem coreReset_freeIdx : (coreReset i o s).freeIdx = s.freeIdx := rfl

end Sys2Proof.Machine
end

