-- ==== Sys2Proof/Laws/Bits.lean ====
section
/-! SUPPORT. Lemmas about bit strings (00_scope.md R14) and the packing of bits into bytes (20_memory.md R78, R80). -/
namespace Sys2Proof

@[simp] theorem bin_length (n v : Nat) : (bin n v).length = n := by
  induction n with
  | zero => rfl
  | succ n ih => simp [bin, ih]

theorem bin_getElem? (n v j : Nat) (h : j < n) : (bin n v)[j]? = some (v.testBit (n - 1 - j)) := by
  induction n generalizing j with
  | zero => omega
  | succ n ih =>
    cases j with
    | zero => simp [bin]
    | succ j => rw [bin, List.getElem?_cons_succ, ih j (by omega)]; congr 2; omega

@[simp] theorem val_nil : val [] = 0 := rfl

theorem val_foldl (s : List Bool) (a : Nat) :
    s.foldl (fun acc b => 2 * acc + b.toNat) a = a * 2 ^ s.length + val s := by
  induction s generalizing a with
  | nil => simp
  | cons b s ih =>
    simp only [List.foldl_cons, val, List.length_cons]
    rw [ih, ih (2 * 0 + b.toNat)]
    ring

theorem val_cons (b : Bool) (s : List Bool) : val (b :: s) = b.toNat * 2 ^ s.length + val s := by
  have h := val_foldl s b.toNat
  simpa [val] using h

theorem val_append (s t : List Bool) : val (s ++ t) = val s * 2 ^ t.length + val t := by
  simpa [val, List.foldl_append] using val_foldl t (val s)

theorem val_lt (s : List Bool) : val s < 2 ^ s.length := by
  induction s with
  | nil => simp
  | cons b s ih =>
    rw [val_cons, List.length_cons, pow_succ]
    cases b <;> simp <;> omega

/-- `val(bin_n(v)) = v` (R14). -/
theorem val_bin (n v : Nat) : val (bin n v) = v % 2 ^ n := by
  induction n with
  | zero => simp [bin, Nat.mod_one]
  | succ n ih =>
    rw [bin, val_cons, ih, bin_length, Nat.mod_pow_succ, Nat.toNat_testBit]
    ring

theorem val_bin_of_lt {n v : Nat} (h : v < 2 ^ n) : val (bin n v) = v := by
  rw [val_bin, Nat.mod_eq_of_lt h]

theorem bin_congr {n v w : Nat} (h : v % 2 ^ n = w % 2 ^ n) : bin n v = bin n w := by
  apply List.ext_getElem?
  intro j
  by_cases hj : j < n
  · rw [bin_getElem? n v j hj, bin_getElem? n w j hj]
    have hv := Nat.testBit_mod_two_pow v n (n - 1 - j)
    have hw := Nat.testBit_mod_two_pow w n (n - 1 - j)
    have hlt : n - 1 - j < n := by omega
    simp only [hlt, decide_true, Bool.true_and] at hv hw
    rw [← hv, ← hw, h]
  · rw [List.getElem?_eq_none (by simp; omega), List.getElem?_eq_none (by simp; omega)]

theorem val_injective {s t : List Bool} (hl : s.length = t.length) (h : val s = val t) : s = t := by
  induction s generalizing t with
  | nil => cases t with
    | nil => rfl
    | cons _ _ => simp at hl
  | cons b s ih =>
    cases t with
    | nil => simp at hl
    | cons c t =>
      simp only [List.length_cons, Nat.succ.injEq] at hl
      rw [val_cons, val_cons, hl] at h
      have h1 := val_lt s
      have h2 := val_lt t
      rw [hl] at h1
      have hbc : b = c := by
        cases b <;> cases c <;> simp at h ⊢ <;> omega
      subst hbc
      rw [ih hl (by omega)]

/-- `bin_n(val(s)) = s` when `|s| = n` (R14). -/
theorem bin_val (s : List Bool) : bin s.length (val s) = s :=
  val_injective (by simp) (val_bin_of_lt (val_lt s))

theorem bin_val_of_length {s : List Bool} {n : Nat} (h : s.length = n) : bin n (val s) = s := by
  rw [← h, bin_val]

/-- R79: two fields in a row are one field. -/
theorem bin_append (a b x y : Nat) (hx : x < 2 ^ a) (hy : y < 2 ^ b) :
    bin a x ++ bin b y = bin (a + b) (x * 2 ^ b + y) := by
  apply val_injective (by simp)
  have hb : 0 < 2 ^ b := Nat.two_pow_pos b
  have : x * 2 ^ b + y < 2 ^ (a + b) := by
    rw [pow_add]; nlinarith
  rw [val_append, val_bin_of_lt hx, val_bin_of_lt hy, val_bin_of_lt this, bin_length]

namespace Machine

@[simp] theorem bitsOf_length (l : List Byte) : (bitsOf l).length = 8 * l.length := by
  induction l with
  | nil => rfl
  | cons b l ih => simp [bitsOf, ih]; omega

theorem bitsOf_append (l m : List Byte) : bitsOf (l ++ m) = bitsOf l ++ bitsOf m := by
  induction l with
  | nil => rfl
  | cons b l ih => simp [bitsOf, ih]

theorem bitsOf_injective {l m : List Byte} (h : bitsOf l = bitsOf m) : l = m := by
  induction l generalizing m with
  | nil =>
    cases m with
    | nil => rfl
    | cons b m => have := congrArg List.length h; simp at this
  | cons b l ih =>
    cases m with
    | nil => have := congrArg List.length h; simp at this
    | cons c m =>
      simp only [bitsOf] at h
      have h8 := List.append_inj h (by simp)
      have hv := congrArg val h8.1
      rw [val_bin_of_lt b.isLt, val_bin_of_lt c.isLt] at hv
      rw [BitVec.eq_of_toNat_eq hv, ih h8.2]

/-- The bytes of whole bytes' bits hold exactly those bits (R78). -/
theorem bitsOf_bytesOf (n : Nat) (bits : List Bool) (h : bits.length = 8 * n) : bitsOf (bytesOf bits) = bits := by
  induction n generalizing bits with
  | zero => have : bits = [] := List.length_eq_zero_iff.mp (by omega)
            subst this; rfl
  | succ n ih =>
    match bits, h with
    | b7 :: b6 :: b5 :: b4 :: b3 :: b2 :: b1 :: b0 :: rest, h =>
      have hr : rest.length = 8 * n := by simp at h; omega
      have hv := val_lt [b7, b6, b5, b4, b3, b2, b1, b0]
      simp only [bytesOf, bitsOf, ih rest hr, BitVec.toNat_ofNat]
      rw [Nat.mod_eq_of_lt (by simpa using hv)]
      exact congrArg (· ++ rest) (bin_val [b7, b6, b5, b4, b3, b2, b1, b0])
    | [], h => simp at h
    | [_], h => simp at h; omega
    | [_, _], h => simp at h; omega
    | [_, _, _], h => simp at h; omega
    | [_, _, _, _], h => simp at h; omega
    | [_, _, _, _, _], h => simp at h; omega
    | [_, _, _, _, _, _], h => simp at h; omega
    | [_, _, _, _, _, _, _], h => simp at h; omega

theorem bytesOf_bitsOf (l : List Byte) : bytesOf (bitsOf l) = l :=
  bitsOf_injective (bitsOf_bytesOf l.length _ (by simp))

theorem padding_lt (bits : List Bool) : padding bits < 8 := by
  unfold padding; omega

theorem padded_length_dvd (bits : List Bool) : 8 ∣ (padded bits).length := by
  simp only [padded, padding, List.length_append, List.length_replicate]; omega

theorem bitsOf_bytesOf_padded (bits : List Bool) : bitsOf (bytesOf (padded bits)) = padded bits := by
  obtain ⟨n, hn⟩ := padded_length_dvd bits
  exact bitsOf_bytesOf n _ hn

theorem padded_of_dvd {bits : List Bool} (h : 8 ∣ bits.length) : padded bits = bits := by
  have : padding bits = 0 := by unfold padding; omega
  simp [padded, this]

end Machine
end Sys2Proof
end

