-- ==== Sys2Proof/Laws/Ops.lean ====
section
/-! SUPPORT. What each shared operation can do, said once: the port transactions, allocation, the two traversals' stacks,
and the queue. -/
namespace Sys2Proof.Machine

/-! ### Outcomes -/

@[simp] theorem andThen_next {α β : Type} (a : α) (f : α → Host.Outcome β Fault Refusal) :
    andThen (.next a) f = f a := rfl

@[simp] theorem andThen_fault {α β : Type} (r : Fault) (f : α → Host.Outcome β Fault Refusal) :
    andThen (.fault r) f = .fault r := rfl

@[simp] theorem andThen_refused {α β : Type} (r : Refusal) (f : α → Host.Outcome β Fault Refusal) :
    andThen (.refused r) f = .refused r := rfl

theorem andThen_eq_next {α β : Type} {x : Host.Outcome α Fault Refusal} {f : α → Host.Outcome β Fault Refusal} {b : β}
    (h : andThen x f = .next b) : ∃ a, x = .next a ∧ f a = .next b := by
  cases x with
  | next a => exact ⟨a, rfl, h⟩
  | fault r => exact absurd h (by simp)
  | refused r => exact absurd h (by simp)

/-! ### Turns -/

theorem turn_of_no_inputs {s : State} (h : s.inputs = []) : s.turn = s := by
  unfold State.turn; simp [h]

theorem draw_of_no_inputs {s : State} (h : s.inputs = []) : s.draw = .serve := by
  unfold State.draw; simp [h]

theorem coreTurn_of_no_inputs {s : State} (h : s.inputs = []) : s.coreTurn = true := by
  unfold State.coreTurn; simp [h]

theorem served_of_no_inputs {s : State} (h : s.inputs = []) : s.served = true := by
  simp [State.served, coreTurn_of_no_inputs h, draw_of_no_inputs h]

theorem turn_allServed {s : State} (h : s.allServed) : s.turn.allServed := by
  unfold State.allServed State.turn at *
  split
  · rename_i d rest hi
    intro x hx
    exact h x (by rw [hi]; exact List.mem_cons_of_mem _ hx)
  · exact h

theorem served_of_allServed {s : State} (h : s.allServed) : s.served = true := by
  unfold State.allServed at h
  unfold State.served State.coreTurn State.draw
  rcases hi : s.inputs with _ | ⟨x, rest⟩
  · simp
  · have hx := h x (by simp [hi])
    subst hx
    simp

theorem served_iff {s : State} : s.served = true ↔ s.coreTurn = true ∧ s.draw = .serve := by
  simp [State.served]

theorem step_of_coreTurn {s : State} (h : s.coreTurn = true) : step s = coreStep s := by
  unfold State.coreTurn at h
  unfold step
  split at h <;> simp_all

theorem step_of_hostTurn {s : State} {e : HostEvent} {rest : List Input} (h : s.hostTurn e rest) :
    step s = hostStep e { s with inputs := rest } := by
  unfold State.hostTurn at h
  unfold step
  simp [h]

/-- Whose turn it is. -/
theorem turn_cases (s : State) : s.coreTurn = true ∨ ∃ e rest, s.hostTurn e rest := by
  unfold State.coreTurn State.hostTurn
  rcases s.inputs with _ | ⟨_ | e, rest⟩
  · simp
  · simp
  · exact .inr ⟨e, rest, rfl⟩

/-! ### The input port -/

@[simp] theorem clipped_size (p : InPort) : p.clipped.size = p.size := rfl

theorem clipped_cursor_le (p : InPort) : p.clipped.ic ≤ p.clipped.size := Nat.min_le_right _ _

theorem afterFault_cursor_le (p : InPort) (e : FaultEffect) : (p.afterFault e).ic ≤ (p.afterFault e).size :=
  clipped_cursor_le _

theorem afterEoi_cursor_le (p : InPort) (n : Nat) : (p.afterEoi n).ic ≤ (p.afterEoi n).size :=
  Nat.le_of_lt_succ (Nat.mod_lt _ (Nat.succ_pos _))

theorem inRead_value {n : Nat} {s : State} (hd : s.draw = .serve) (hx : s.inp.exhausted n = false) :
    inRead n s = .next (.val (s.inp.field n), s.afterRead n) := by
  simp [inRead, hd, hx, State.afterRead]

theorem inRead_eoi {n : Nat} {s : State} (hd : s.draw = .serve) (hx : s.inp.exhausted n = true) :
    inRead n s = .next (.eoi, s.afterEoi n) := by
  simp [inRead, hd, hx, State.afterEoi]

theorem inRead_fault {n : Nat} {s : State} {c : Word} {e : FaultEffect} (hd : s.draw = .fault c e) :
    inRead n s = .next (.fault c,
      { s.turn.record (.inRead n (.fault c)) with inp := s.inp.afterFault e }) := by
  simp [inRead, hd]

theorem inRead_silent {n : Nat} {s : State} (hd : s.draw = .silent) : inRead n s = .fault .portNeverAnswers := by
  simp [inRead, hd]

/-- Everything InRead can answer. -/
theorem inRead_cases {n : Nat} {s : State} {r : InAnswer × State} (h : inRead n s = .next r) :
    (∃ c e, s.draw = .fault c e ∧ r = (.fault c,
      { s.turn.record (.inRead n (.fault c)) with inp := s.inp.afterFault e })) ∨
    (s.draw = .serve ∧ s.inp.exhausted n = true ∧ r = (.eoi, s.afterEoi n)) ∨
    (s.draw = .serve ∧ s.inp.exhausted n = false ∧ r = (.val (s.inp.field n), s.afterRead n)) := by
  cases hd : s.draw with
  | silent => rw [inRead_silent hd] at h; exact absurd h (by simp)
  | fault c e => rw [inRead_fault hd] at h; exact .inl ⟨c, e, rfl, (Host.Outcome.next.inj h).symm⟩
  | serve =>
    cases hx : s.inp.exhausted n with
    | true => rw [inRead_eoi hd hx] at h; exact .inr (.inl ⟨rfl, rfl, (Host.Outcome.next.inj h).symm⟩)
    | false => rw [inRead_value hd hx] at h; exact .inr (.inr ⟨rfl, rfl, (Host.Outcome.next.inj h).symm⟩)

theorem not_exhausted_iff {p : InPort} {n : Nat} : p.exhausted n = false ↔ p.eoi = false ∧ p.ic + n ≤ p.size := by
  simp [InPort.exhausted]

theorem exhausted_iff {p : InPort} {n : Nat} : p.exhausted n = true ↔ p.eoi = true ∨ p.size < p.ic + n := by
  simp [InPort.exhausted]

theorem ahead_length (p : InPort) : p.ahead.length = p.size - p.ic := by
  simp [InPort.ahead, InPort.size]

theorem field_lt {p : InPort} {n : Nat} : p.field n < 2 ^ n := by
  refine lt_of_lt_of_le (val_lt _) (Nat.pow_le_pow_right (by norm_num) ?_)
  simp

theorem inReset_ok {s : State} (hd : s.draw = .serve) :
    inReset s = .next (.ok, { s.turn.record (.inReset .ok) with inp := { s.inp with ic := 0, eoi := false } }) := by
  simp [inReset, hd]

theorem inReset_fault {s : State} {c : Word} {e : FaultEffect} (hd : s.draw = .fault c e) :
    inReset s = .next (.fault c, { s.turn.record (.inReset (.fault c)) with inp := s.inp.afterFault e }) := by
  simp [inReset, hd]

theorem inReset_silent {s : State} (hd : s.draw = .silent) : inReset s = .fault .portNeverAnswers := by
  simp [inReset, hd]

/-- Everything InReset can answer. -/
theorem inReset_cases {s : State} {r : AckAnswer × State} (h : inReset s = .next r) :
    (∃ c e, s.draw = .fault c e ∧ r = (.fault c,
      { s.turn.record (.inReset (.fault c)) with inp := s.inp.afterFault e })) ∨
    (s.draw = .serve ∧
      r = (.ok, { s.turn.record (.inReset .ok) with inp := { s.inp with ic := 0, eoi := false } })) := by
  cases hd : s.draw with
  | silent => rw [inReset_silent hd] at h; exact absurd h (by simp)
  | fault c e => rw [inReset_fault hd] at h; exact .inl ⟨c, e, rfl, (Host.Outcome.next.inj h).symm⟩
  | serve => rw [inReset_ok hd] at h; exact .inr ⟨rfl, (Host.Outcome.next.inj h).symm⟩

/-! ### The output port -/

theorem outWrite_ok {n v : Nat} {s : State} (h1 : 1 ≤ n) (h2 : n ≤ 256) (ho : s.out.oc = false) (hd : s.draw = .serve) :
    outWrite n v s = .next (.ok, s.afterWrite n v) := by
  have hw : ¬ (n = 0 ∨ 256 < n) := by omega
  simp [outWrite, hw, ho, hd, State.afterWrite]

theorem outWrite_fault {n v : Nat} {s : State} {c : Word} {e : FaultEffect} (h1 : 1 ≤ n) (h2 : n ≤ 256)
    (ho : s.out.oc = false) (hd : s.draw = .fault c e) :
    outWrite n v s = .next (.fault c, { s.turn.record (.outWrite n v (.fault c)) with
      out := { s.out with ob := s.out.ob ++ e.bits } }) := by
  have hw : ¬ (n = 0 ∨ 256 < n) := by omega
  simp [outWrite, hw, ho, hd]

theorem outWrite_silent {n v : Nat} {s : State} (h1 : 1 ≤ n) (h2 : n ≤ 256) (ho : s.out.oc = false)
    (hd : s.draw = .silent) : outWrite n v s = .fault .portNeverAnswers := by
  have hw : ¬ (n = 0 ∨ 256 < n) := by omega
  simp [outWrite, hw, ho, hd]

/-- Everything OutWrite can answer. -/
theorem outWrite_cases {n v : Nat} {s : State} {r : AckAnswer × State} (h : outWrite n v s = .next r) :
    1 ≤ n ∧ n ≤ 256 ∧ s.out.oc = false ∧
    ((∃ c e, s.draw = .fault c e ∧ r = (.fault c, { s.turn.record (.outWrite n v (.fault c)) with
      out := { s.out with ob := s.out.ob ++ e.bits } })) ∨
    (s.draw = .serve ∧ r = (.ok, s.afterWrite n v))) := by
  by_cases hw : n = 0 ∨ 256 < n
  · simp [outWrite, hw] at h
  · cases ho : s.out.oc with
    | true => simp [outWrite, hw, ho] at h
    | false =>
      have h1 : 1 ≤ n := by omega
      have h2 : n ≤ 256 := by omega
      refine ⟨h1, h2, rfl, ?_⟩
      cases hd : s.draw with
      | silent => rw [outWrite_silent h1 h2 ho hd] at h; exact absurd h (by simp)
      | fault c e =>
        rw [outWrite_fault h1 h2 ho hd] at h; exact .inl ⟨c, e, rfl, (Host.Outcome.next.inj h).symm⟩
      | serve => rw [outWrite_ok h1 h2 ho hd] at h; exact .inr ⟨rfl, (Host.Outcome.next.inj h).symm⟩

theorem outClose_ok {s : State} (ho : s.out.oc = false) (hd : s.draw = .serve) :
    outClose s = .next (.ok, { s.turn.record (.outClose .ok) with out := s.out.closed }) := by
  simp [outClose, ho, hd]

theorem outClose_fault {s : State} {c : Word} {e : FaultEffect} (ho : s.out.oc = false) (hd : s.draw = .fault c e) :
    outClose s = .next (.fault c, { s.turn.record (.outClose (.fault c)) with
      out := { ob := s.out.ob ++ e.bits, oc := e.closed, sink := e.sink } }) := by
  simp [outClose, ho, hd]

theorem outClose_silent {s : State} (ho : s.out.oc = false) (hd : s.draw = .silent) :
    outClose s = .fault .portNeverAnswers := by
  simp [outClose, ho, hd]

/-- Everything OutClose can answer. -/
theorem outClose_cases {s : State} {r : AckAnswer × State} (h : outClose s = .next r) :
    s.out.oc = false ∧
    ((∃ c e, s.draw = .fault c e ∧ r = (.fault c, { s.turn.record (.outClose (.fault c)) with
      out := { ob := s.out.ob ++ e.bits, oc := e.closed, sink := e.sink } })) ∨
    (s.draw = .serve ∧ r = (.ok, { s.turn.record (.outClose .ok) with out := s.out.closed }))) := by
  cases ho : s.out.oc with
  | true => simp [outClose, ho] at h
  | false =>
    refine ⟨rfl, ?_⟩
    cases hd : s.draw with
    | silent => rw [outClose_silent ho hd] at h; exact absurd h (by simp)
    | fault c e => rw [outClose_fault ho hd] at h; exact .inl ⟨c, e, rfl, (Host.Outcome.next.inj h).symm⟩
    | serve => rw [outClose_ok ho hd] at h; exact .inr ⟨rfl, (Host.Outcome.next.inj h).symm⟩

/-! ### The host's use of the ports -/

theorem portUse_busy {o : Host.Outcome State Fault Refusal} {s : State} (h : s.status.busy = true) :
    portUse o s = .refused .portInUse := by
  simp [portUse, h]

theorem portUse_idle {o : Host.Outcome State Fault Refusal} {s : State} (h : s.status.busy = false) :
    portUse o s = o := by
  simp [portUse, h]

/-- Everything a use of a port by the host can do. -/
theorem portUse_cases {o : Host.Outcome State Fault Refusal} {s t : State} (h : portUse o s = .next t) :
    s.status.busy = false ∧ o = .next t := by
  cases hb : s.status.busy with
  | true => rw [portUse_busy hb] at h; exact absurd h (by simp)
  | false => rw [portUse_idle hb] at h; exact ⟨rfl, h⟩

/-- Everything a read of the input port by the host can do. -/
theorem hostRead_cases {n : Nat} {s t : State} (h : hostRead n s = .next t) :
    (n = 1 ∨ n = 8 ∨ n = 9 ∨ n = 32) ∧
    ((s.inp.exhausted n = true ∧ t = { s with inp := s.inp.afterEoi s.freeIdx, freeIdx := s.freeIdx + 1 }) ∨
    (s.inp.exhausted n = false ∧
      t = { s with inp := { s.inp with ic := s.inp.ic + n }, hostData := BitVec.ofNat 32 (s.inp.field n) })) := by
  unfold hostRead at h
  split at h
  · exact absurd h (by simp)
  rename_i hn
  refine ⟨not_not.mp hn, ?_⟩
  split at h
  · rename_i hx; exact .inl ⟨hx, (Host.Outcome.next.inj h).symm⟩
  · rename_i hx; exact .inr ⟨by simpa using hx, (Host.Outcome.next.inj h).symm⟩

/-- Everything a write of the output port by the host can do. -/
theorem hostWrite_cases {n v : Nat} {s t : State} (h : hostWrite n v s = .next t) :
    1 ≤ n ∧ n ≤ 256 ∧ v < 2 ^ n ∧ s.out.oc = false ∧
      t = { s with out := { s.out with ob := s.out.ob ++ bin n v } } := by
  unfold hostWrite at h
  split at h
  · exact absurd h (by simp)
  rename_i hn
  split at h
  · exact absurd h (by simp)
  rename_i ho
  push Not at hn
  exact ⟨by omega, hn.2.1, hn.2.2, by simpa using ho, (Host.Outcome.next.inj h).symm⟩

/-! ### The node store -/

theorem setNode_nodeAt (s : State) (i j : NodeIdx) (e : NodeEntry) :
    (s.setNode i e).nodeAt j = if j = i then e else s.nodeAt j := by
  simp only [State.nodeAt, State.setNode, Vector.getElem_set]
  by_cases h : j = i
  · simp [h]
  · have h' : ¬ i.val = j.val := fun hv => h (Fin.ext hv.symm)
    simp [h, h']

@[simp] theorem setNode_nodeAt_same (s : State) (i : NodeIdx) (e : NodeEntry) : (s.setNode i e).nodeAt i = e := by
  simp [setNode_nodeAt]

theorem setNode_nodeAt_other {s : State} {i j : NodeIdx} {e : NodeEntry} (h : j ≠ i) :
    (s.setNode i e).nodeAt j = s.nodeAt j := by
  simp [setNode_nodeAt, h]

theorem setLeaf_nodeAt (s : State) (i j : NodeIdx) (sym : Symbol) (w : Nat) :
    (s.setLeaf i sym w).nodeAt j =
      if j = i then { s.nodeAt i with isLeaf := true, sym := sym, w := w } else s.nodeAt j :=
  setNode_nodeAt _ _ _ _

theorem alloc_some {s : State} (h : s.nnodes < 513) :
    alloc s = some (⟨s.nnodes, h⟩, { s with nnodes := s.nnodes + 1 }) := by
  simp [alloc, h]

theorem alloc_none {s : State} (h : 513 ≤ s.nnodes) : alloc s = none := by
  have : ¬ s.nnodes < 513 := by omega
  simp [alloc, this]

theorem alloc_eq_some {s : State} {r : NodeIdx × State} (h : alloc s = some r) :
    ∃ hn : s.nnodes < 513, r = (⟨s.nnodes, hn⟩, { s with nnodes := s.nnodes + 1 }) := by
  unfold alloc at h
  split at h
  · rename_i hn; exact ⟨hn, (Option.some.inj h).symm⟩
  · exact absurd h (by simp)

theorem alloc_eq_none {s : State} (h : alloc s = none) : 513 ≤ s.nnodes := by
  unfold alloc at h
  split at h
  · exact absurd h (by simp)
  · omega

/-! ### The queue -/

theorem firstRanked_eq_none {w : NodeIdx → Nat} {q : List NodeIdx} (h : firstRanked w q = none) : q = [] := by
  cases q with
  | nil => rfl
  | cons i rest =>
    unfold firstRanked at h
    split at h
    · exact absurd h (by simp)
    · split at h <;> exact absurd h (by simp)

theorem firstRanked_mem {w : NodeIdx → Nat} {q : List NodeIdx} {i : NodeIdx} (h : firstRanked w q = some i) : i ∈ q := by
  induction q generalizing i with
  | nil => simp [firstRanked] at h
  | cons j rest ih =>
    unfold firstRanked at h
    split at h
    · simp at h; simp [h]
    · rename_i k hk
      split at h
      · simp at h; simp [h]
      · simp at h; subst h; exact List.mem_cons_of_mem _ (ih hk)

theorem extractMin_eq_some {s : State} {r : NodeIdx × State} (h : extractMin s = some r) :
    r.1 ∈ s.q ∧ firstRanked (fun i => (s.nodeAt i).w) s.q = some r.1 ∧ r.2 = { s with q := s.q.erase r.1 } := by
  unfold extractMin at h
  split at h
  · exact absurd h (by simp)
  · rename_i i hi
    have hr := (Option.some.inj h).symm
    subst hr
    exact ⟨firstRanked_mem hi, hi, rfl⟩

/-! ### Runs -/

theorem runs_zero (s : State) : runs 0 s = .next s := rfl

/-- One more step, before the others. -/
theorem runs_step_first (k : Nat) (s : State) : runs (k + 1) s = andThen (step s) (runs k) := rfl

theorem runs_succ {s t : State} (k : Nat) (h : step s = .next t) : runs (k + 1) s = runs k t := by
  rw [runs_step_first, h, andThen_next]

theorem runs_add {s t : State} {j : Nat} (k : Nat) (h : runs j s = .next t) : runs (j + k) s = runs k t := by
  induction j generalizing s with
  | zero =>
    have : s = t := Host.Outcome.next.inj h
    simp [this]
  | succ j ih =>
    rw [runs_step_first] at h
    obtain ⟨u, hu, hj⟩ := andThen_eq_next h
    rw [Nat.succ_add, runs_succ _ hu, ih hj]

theorem reaches_refl (s : State) : Reaches s s := ⟨0, rfl⟩

theorem reaches_of_step {s t : State} (h : step s = .next t) : Reaches s t := ⟨1, by rw [runs_succ 0 h, runs_zero]⟩

theorem reaches_of_runs {s t : State} {k : Nat} (h : runs k s = .next t) : Reaches s t := ⟨k, h⟩

theorem reaches_trans {s t u : State} (h : Reaches s t) (h' : Reaches t u) : Reaches s u := by
  obtain ⟨j, hj⟩ := h
  obtain ⟨k, hk⟩ := h'
  exact ⟨j + k, by rw [runs_add k hj, hk]⟩

end Sys2Proof.Machine
end

