-- ==== Sys2Proof/Laws/Build.lean ====
section
/-! SUPPORT. What the Tree Builder's and the Code Table Generator's operations can do, said once (42_tree_builder.md,
43_code_table.md): the sums of counts, the seeding, the queue, a merge, a code entry, and a launch. -/
namespace Sys2Proof.Machine

variable {s t : State}

/-! ### Counts -/

/-- One more count raises the sum of the counts by one (R186). -/
theorem sum_set_succ (l : List Nat) (i : Nat) (h : i < l.length) : (l.set i (l[i] + 1)).sum = l.sum + 1 := by
  induction l generalizing i with
  | nil => simp at h
  | cons a l ih =>
    cases i with
    | zero => simp; omega
    | succ i => simp at h ⊢; rw [ih i h]; omega

/-! ### Seeding -/

/-- What seeding keeps of the queue and the node store: Q in ascending order of allocated entries (R47, R203). -/
structure Seeded (s : State) : Prop where
  asc : s.q.Pairwise (fun i j => i.val < j.val)
  all : ∀ i ∈ s.q, i.val < s.nnodes
  le : s.nnodes ≤ 513

theorem seedLeaf_spec {x : Symbol × Nat} (h : Seeded s) (hn : s.nnodes < 513) :
   ∃ t, seedLeaf x s = some t ∧ Seeded t ∧ t.nnodes = s.nnodes + 1 ∧ t.q.length = s.q.length + 1 ∧
     (t.q.map (fun i => (t.nodeAt i).w)).sum = (s.q.map (fun i => (s.nodeAt i).w)).sum + x.2 ∧
     t = { s with nnodes := t.nnodes, q := t.q, node := t.node } := by
  refine ⟨_, by simp only [seedLeaf, alloc_some hn]; rfl, ?_, rfl, ?_, ?_, rfl⟩
  · refine ⟨?_, ?_, ?_⟩
    · simp only []
      rw [List.pairwise_append]
      refine ⟨h.asc, by simp, ?_⟩
      intro a ha b hb; simp at hb; subst hb; exact h.all a ha
    · intro i hi
      simp at hi
      rcases hi with hi | rfl
      · have := h.all i hi; simp; omega
      · simp
    · simp; omega
  · simp
  · simp only [List.map_append, List.sum_append, List.map_cons, List.map_nil, List.sum_cons, List.sum_nil]
    congr 1
    · congr 1
      apply List.map_congr_left
      intro i hi
      have := h.all i hi
      have hne : i ≠ ⟨s.nnodes, hn⟩ := by intro e; rw [e] at this; simp at this
      show (State.nodeAt (State.setLeaf _ _ _ _) i).w = _
      rw [setLeaf_nodeAt, if_neg hne]; rfl
    · show (State.nodeAt (State.setLeaf _ _ _ _) _).w + 0 = _
      rw [setLeaf_nodeAt, if_pos rfl]; rfl

theorem seedAll_spec (l : List (Symbol × Nat)) : ∀ {s : State}, Seeded s → s.nnodes + l.length ≤ 513 →
   ∃ t, seedAll l s = some t ∧ Seeded t ∧ t.nnodes = s.nnodes + l.length ∧ t.q.length = s.q.length + l.length ∧
     (t.q.map (fun i => (t.nodeAt i).w)).sum = (s.q.map (fun i => (s.nodeAt i).w)).sum + (l.map Prod.snd).sum ∧
     t = { s with nnodes := t.nnodes, q := t.q, node := t.node } := by
  induction l with
  | nil => intro s h _; exact ⟨s, rfl, h, by simp, by simp, by simp, rfl⟩
  | cons x l ih =>
    intro s h hn
    simp at hn
    obtain ⟨t, ht, hs, h1, h2, h3, h4⟩ := seedLeaf_spec (x := x) h (by omega)
    obtain ⟨u, hu, hs', g1, g2, g3, g4⟩ := ih hs (by omega)
    refine ⟨u, by simp [seedAll, ht, hu], hs', by simp; omega, by simp; omega, ?_, ?_⟩
    · rw [g3, h3]; simp; omega
    · rw [g4, h4]

theorem finRange_map_get {α} {n : Nat} (v : Vector α n) : (List.finRange n).map (fun b => v[b.val]) = v.toList := by
  apply List.ext_getElem <;> simp

theorem seedLeaves_length (f : Vector Nat 256) : (seedLeaves f).length ≤ 257 := by
  have := List.length_filterMap_le (fun b : Fin 256 => if f[b.val] > 0 then some (BitVec.ofNat 9 b.val, f[b.val]) else none) (List.finRange 256)
  simp [seedLeaves] at this ⊢; omega

theorem filterMap_sum (f : Fin 256 → Nat) (l : List (Fin 256)) :
   ((l.filterMap (fun b => if f b > 0 then some (BitVec.ofNat 9 b.val, f b) else none)).map Prod.snd).sum = (l.map f).sum := by
  induction l with
  | nil => rfl
  | cons a l ih =>
    rw [List.filterMap_cons]
    by_cases h : f a > 0
    · simp [h, ih]
    · simp [h, ih]; omega

theorem seedLeaves_sum (f : Vector Nat 256) : ((seedLeaves f).map Prod.snd).sum = f.toList.sum + 1 := by
  have h := filterMap_sum (fun b => f[b.val]) (List.finRange 256)
  simp only [seedLeaves, List.map_append, List.sum_append]
  rw [h, finRange_map_get]; rfl

/-! ### A merge -/

/-- Taking an index out of the queue takes its weight out of the sum (R209). -/
theorem sum_erase (w : NodeIdx → Nat) {q : List NodeIdx} {i : NodeIdx} (h : i ∈ q) :
    ((q.erase i).map w).sum + w i = (q.map w).sum := by
  induction q with
  | nil => simp at h
  | cons a q ih =>
    by_cases e : a = i
    · subst e; simp; omega
    · rw [List.erase_cons_tail (by simpa using e)]
      have : i ∈ q := by simpa [Ne.symm e] using h
      simp; have := ih this; omega

/-- Everything a merge can do (R200, R204 to R206). -/
theorem mergeStep_cases (h : mergeStep s = .next t) :
    ∃ (a c : NodeIdx) (hn : s.nnodes < 513), a ∈ s.q ∧ c ∈ s.q.erase a ∧
      firstRanked (fun i => (s.nodeAt i).w) s.q = some a ∧
      firstRanked (fun i => (s.nodeAt i).w) (s.q.erase a) = some c ∧
      t = { s with
        nnodes := s.nnodes + 1
        node := s.node.set s.nnodes (mergedNode s a c)
        q := (s.q.erase a).erase c ++ [⟨s.nnodes, hn⟩] } := by
  unfold mergeStep at h
  split at h
  · exact absurd h (by simp)
  rename_i a s1 ha
  obtain ⟨ha1, ha2, ha3⟩ := extractMin_eq_some ha
  simp only at ha1 ha2 ha3
  subst ha3
  split at h
  · exact absurd h (by simp)
  rename_i c s2 hc
  obtain ⟨hc1, hc2, hc3⟩ := extractMin_eq_some hc
  simp only at hc1 hc2 hc3
  subst hc3
  split at h
  · exact absurd h (by simp)
  rename_i m s3 hm
  obtain ⟨hn, hm⟩ := alloc_eq_some hm
  simp only [Prod.mk.injEq] at hm
  obtain ⟨rfl, rfl⟩ := hm
  exact ⟨a, c, hn, ha1, hc1, ha2, hc2, (Host.Outcome.next.inj h).symm⟩

/-- What a merge leaves of BUILD's queue: one node fewer (R206). -/
theorem mergeStep_length (h : mergeStep s = .next t) : t.q.length + 1 = s.q.length := by
  obtain ⟨a, c, hn, ha, hc, -, -, rfl⟩ := mergeStep_cases h
  have h1 := List.length_erase_of_mem ha
  have h2 := List.length_erase_of_mem hc
  have h3 := List.length_pos_of_mem ha
  have h4 := List.length_pos_of_mem hc
  simp only [List.length_append, List.length_cons, List.length_nil]
  omega

/-- BUILD's loop changes the node store, NNODES, Q and ROOT, and nothing else (R200). -/
theorem mergeAll_frame (size : Nat) (h : mergeAll size s = .next t) :
    t = { s with node := t.node, nnodes := t.nnodes, q := t.q, root := t.root } := by
  induction size generalizing s with
  | zero => exact absurd h (by simp [mergeAll])
  | succ size ih =>
    unfold mergeAll at h
    split at h
    · exact absurd h (by simp)
    · have := (Host.Outcome.next.inj h).symm
      subst this; rfl
    · obtain ⟨u, hu, ht⟩ := andThen_eq_next h
      obtain ⟨a, c, hn, -, -, -, -, rfl⟩ := mergeStep_cases hu
      have h1 := ih ht
      exact h1

/-- VISIT changes CODE and nothing else (R230). -/
theorem visit_frame (levels : Nat) {i : NodeIdx} {p : List Bool} (h : visit levels i p s = .next t) :
    t = { s with code := t.code } := by
  induction levels generalizing i p s t with
  | zero => exact absurd h (by simp [visit])
  | succ levels ih =>
    unfold visit at h
    split at h
    · unfold setCode at h
      split at h
      · split at h
        · have := (Host.Outcome.next.inj h).symm
          subst this; rfl
        · exact absurd h (by simp)
      · exact absurd h (by simp)
    · obtain ⟨u, hu, ht⟩ := andThen_eq_next h
      have h1 := ih hu
      have h2 := ih ht
      rw [h2, h1]

/-! ### A code -/

theorem setCode_of_le {sym : Symbol} {p : List Bool} (hs : sym.toNat < 257) (hp : p.length < 257) :
    setCode sym p s = .next { s with
      code := s.code.set sym.toNat { len := ⟨p.length, hp⟩, bits := BitVec.ofNat 256 (val p) } } := by
  simp [setCode, hs, hp]

/-- The bit string of an entry written from a path is the path (R48). -/
theorem bitString_of_path (p : List Bool) (hp : p.length < 257) :
    CodeEntry.bitString { len := ⟨p.length, hp⟩, bits := BitVec.ofNat 256 (val p) } = p := by
  have hv : val p < 2 ^ 256 := lt_of_lt_of_le (val_lt p) (Nat.pow_le_pow_right (by decide) (by omega))
  simp only [CodeEntry.bitString, BitVec.toNat_ofNat, Nat.mod_eq_of_lt hv, bin_val]

/-! ### A launch -/

theorem atStart_iff {p : InPort} : p.atStart = true ↔ p.ic = 0 := by
  simp [InPort.atStart]

/-- Everything a launch can do (R150, R151, R354 to R356, R364). -/
theorem launch_cases {op : Op} {placed : Bool} {start : State → State} (h : launch op placed start s = .next t) :
    (s.status.busy = true ∧ t = s) ∨
    (s.status.busy = false ∧ s.aliased = false ∧ placed = true ∧ s.out.oc = false ∧
      t = start (accept op s)) := by
  unfold launch at h
  split at h
  · rename_i hb; exact .inl ⟨hb, (Host.Outcome.next.inj h).symm⟩
  rename_i hb
  split at h
  · exact absurd h (by simp)
  rename_i ha
  split at h
  · exact absurd h (by simp)
  rename_i hc
  split at h
  · exact absurd h (by simp)
  rename_i ho
  exact .inr ⟨by simpa using hb, by simpa using ha, by simpa using hc, by simpa using ho, (Host.Outcome.next.inj h).symm⟩

end Sys2Proof.Machine
end

