-- ==== Sys2Proof/Laws/PerInstr.lean ====
section
/-! SUPPORT. Facts about every instruction as syntax, one lemma per constructor. -/
namespace Sys2Proof.Laws.EncodeLength

/-- The number of bits of an instruction's encoding: 32 for a command word (R110), 1 for NODE (R117), 10 for
LEAF (R118). -/
def bits : Instr → Nat
  | .compress => 32
  | .decompress => 32
  | .illegal _ => 32
  | .node => 1
  | .leaf _ => 10

/-- The encoding of an instruction has the length its format and row give it. -/
def Statement (i : Instr) : Prop :=
  (encode i).length = bits i

theorem compress : Statement .compress := bin_length 32 1

theorem decompress : Statement .decompress := bin_length 32 2

theorem illegal (w : Word) : Statement (.illegal w) := bin_length 32 w.toNat

theorem node : Statement .node := rfl

theorem leaf (sym : Symbol) : Statement (.leaf sym) := congrArg (· + 1) (bin_length 9 sym.toNat)

end Sys2Proof.Laws.EncodeLength
end

