-- ==== Sys2Proof/Tests/Slice0.lean ====
section
/-! SUPPORT. The package's tests: ill-formed terms, hand-written encodings, single steps whose results stand in the
spec's rules and vectors (95_test_vectors.md), and for every statement with hypotheses a state that meets them. -/
namespace Sys2Proof.Tests
open Sys2Proof.Machine

/-! ### Well-formedness (30_encoding.md R113) -/

theorem test_wf_refuses_illegal_1 : (Instr.illegal 1#32).wf = false := by decide
theorem test_wf_refuses_illegal_2 : (Instr.illegal 2#32).wf = false := by decide
theorem test_wf_accepts_illegal_0 : (Instr.illegal 0#32).wf = true := by decide
theorem test_wf_accepts_leaf_511 : (Instr.leaf 511#9).wf = true := by decide

/-! ### Encodings, written out from R112, R113, R117, R118 and E10 -/

theorem test_decode_compress :
    decode .cmd32 (List.replicate 31 false ++ [true]) = .ok (.compress, []) := by decide
theorem test_decode_decompress :
    decode .cmd32 (List.replicate 30 false ++ [true, false]) = .ok (.decompress, []) := by decide
theorem test_decode_illegal :
    decode .cmd32 (List.replicate 30 false ++ [true, true]) = .ok (.illegal 3#32, []) := by decide
theorem test_decode_short_command : decode .cmd32 (List.replicate 31 false) = .error .shortCommand := by decide
theorem test_decode_node : decode .hdr [false] = .ok (.node, []) := by decide
/-- The LEAF token of 'A' in V1's header, `"1001000001"`. -/
theorem test_decode_leaf :
    decode .hdr [true, false, false, true, false, false, false, false, false, true] = .ok (.leaf 65#9, []) := by decide
/-- The LEAF token of the sentinel in V1's header, `"1100000000"`. -/
theorem test_encode_leaf :
    encode (.leaf 256#9) = [true, true, false, false, false, false, false, false, false, false] := by decide
theorem test_table_word_compress : decodeTableWord 32 1 = some .compress := by decide
theorem test_table_word_node : decodeTableWord 8 0 = some .node := by decide
theorem test_table_word_leaf : decodeTableWord 16 0x241 = some (.leaf 65#9) := by decide

/-! ### The states the tests step from -/

/-- Reset, with the example value of MAGIC that 95_test_vectors.md uses. -/
def base : State := { State.reset with magic := 0x12345678#32 }

/-- An idle machine with a source presented and a command word about to be written. -/
def launched (w : Word) (src : List Byte) : State :=
  { base with
    inp := { src := src, ic := 0, eoi := false }
    inputs := [.host (.regWrite 0x0 4 w)] }

/-- A running COMPRESS in a phase, with an input and a pending transaction. -/
def compressing (ph : Phase) (pe : Pending) (inp : InPort) : State :=
  { base with status := Status.accepted, op := .compress, phase := ph, pending := pe, inp := inp }

/-- A running DECOMPRESS in a phase, with an input and a pending transaction. -/
def decompressing (ph : Phase) (pe : Pending) (inp : InPort) : State :=
  { base with status := Status.accepted, op := .decompress, phase := ph, pending := pe, inp := inp }

/-- An input port with a source and a cursor. -/
def source (src : List Byte) (ic : Nat) : InPort := { src := src, ic := ic, eoi := false }

/-- A leaf. -/
def leafEntry (sym : Symbol) (w : Nat) : NodeEntry := { NodeEntry.zero with isLeaf := true, sym := sym, w := w }

/-- An internal node. -/
def nodeEntry (w : Nat) (l r : NodeIdx) : NodeEntry := { NodeEntry.zero with w := w, l := l, r := r }

/-- The node store of E1. -/
def storeE1 : Vector NodeEntry 513 :=
  ((((State.reset.node.set 0 (leafEntry 65 2)).set 1 (leafEntry 66 1)).set 2 (leafEntry 256 1)).set 3
    (nodeEntry 2 1 2)).set 4 (nodeEntry 4 0 3)

/-- The tree of E1. -/
def treeE1 : Tree := .node 4 (.leaf 65 2) (.node 2 (.leaf 66 1) (.leaf 256 1))

/-- The code table of V1. -/
def codeV1 : Vector CodeEntry 257 :=
  ((State.reset.code.set 65 { len := 1, bits := 0 }).set 66 { len := 2, bits := 2 }).set 256 { len := 2, bits := 3 }

/-- A state with E1's tree and V1's codes. -/
def withE1 (s : State) : State := { s with node := storeE1, nnodes := 5, root := 4, cur := 4, code := codeV1 }

/-- E1 at the start of BUILD's loop: three leaves in Q. -/
def buildingE1 : State :=
  { compressing .build .top (source [0x41#8, 0x41#8, 0x42#8] 24) with
    node := ((State.reset.node.set 0 (leafEntry 65 2)).set 1 (leafEntry 66 1)).set 2 (leafEntry 256 1)
    nnodes := 3
    total := 3
    q := [0, 1, 2] }

/-- V1's COMPRESS at the end of its first pass. -/
def countedE1 : State :=
  { compressing .count .top (source [0x41#8, 0x41#8, 0x42#8] 24) with
    freq := (State.reset.freq.set 65 2).set 66 1
    total := 3 }

/-- A header frame. -/
def frame (i : NodeIdx) (side : Bool) : Frame := { node := i, side := side }

/-- Reading a header, with `n` nodes allocated and frames pending. -/
def reading (n : Nat) (pe : Pending) (inp : InPort) (st : List Frame) : State :=
  { decompressing .rheader pe inp with nnodes := n, hstack := st }

/-- Whether an outcome is a next state that meets a test. -/
def nextMeets (o : Host.Outcome State Fault Refusal) (p : State → Bool) : Bool :=
  match o with
  | .next t => p t
  | .fault _ => false
  | .refused _ => false

/-! ### Single steps -/

/-- R150: STATUS of a running command is 1. -/
theorem test_compress_status : nextMeets (exec .compress base) (fun t => t.status.word == 1#32 && t.phase == .count) := by
  decide
/-- R151: a busy core loses the word. -/
theorem test_compress_while_busy :
    nextMeets (exec .compress (decompressing .decode .top (source [] 0))) (fun t => t.phase == .decode) := by decide
theorem test_decompress_status :
    nextMeets (exec .decompress base) (fun t => t.status.word == 1#32 && t.phase == .rmagic) := by decide
/-- R354, X27. -/
theorem test_compress_cursor :
    exec .compress { base with inp := source [0x41#8] 8 } = .refused .cursorNotAtStart := by rfl
/-- R154: an artifact after the first byte of its source. -/
theorem test_decompress_cursor :
    nextMeets (exec .decompress { base with inp := source [0x41#8, 0x12#8] 8 }) (fun t => t.inp.ic == 8) := by decide
/-- R360, X27. -/
theorem test_port_read_while_busy :
    step { compressing .count .top (source [0x41#8] 0) with inputs := [.host (.portRead 8)] } = .refused .portInUse := by
  rfl
/-- R72. -/
theorem test_port_read_while_idle :
    nextMeets (step { base with inp := source [0x41#8, 0x42#8] 8, inputs := [.host (.portRead 8)] })
      (fun t => t.inp.ic == 16 && t.hostData == 0x42#32) := by decide
/-- R364. -/
theorem test_decompress_aliased : exec .decompress { base with aliased := true } = .refused .streamsAliased := by rfl
/-- The table of error STATUS words in 95_test_vectors.md. -/
theorem test_illegal_status : nextMeets (exec (.illegal 0#32) base) (fun t => t.status.word == 0xA06#32) := by decide
theorem test_illegal_no_close : nextMeets (exec (.illegal 3#32) base) (fun t => t.trace == [] && !t.out.oc) := by decide
/-- V1: the root's token is NODE, `OutWrite(1,0)`. -/
theorem test_node_written :
    nextMeets (step { withE1 (compressing .wheader .top (source [] 0)) with hstack := [frame 4 false] })
      (fun t => t.trace == [.outWrite 1 0 .ok] && t.hstack == [frame 0 false, frame 3 false]) := by decide
theorem test_node_read :
    nextMeets (step (reading 1 .top (source [0x40#8] 0) [frame 0 false]))
      (fun t => t.nnodes == 2 && t.hstack == [frame 1 false, frame 0 false]) := by decide
/-- V1: 'A' is `OutWrite(9,65)` after its flag. -/
theorem test_leaf_written :
    nextMeets (step { withE1 (compressing .wheader .symField (source [] 0)) with hstack := [frame 0 false] })
      (fun t => t.trace == [.outWrite 9 65 .ok] && t.phase == .rewind) := by decide
/-- V1's header `48 29 0B 00`: 'A' is read from bits 2 to 10. -/
theorem test_leaf_read :
    nextMeets (step (reading 1 .symField (source [0x48#8, 0x29#8] 2) [frame 0 false]))
      (fun t => (t.nodeAt 1).sym == 65#9 && (t.nodeAt 0).l == 1 && t.inp.ic == 11) := by decide
/-- E1: the first merge joins leaves 1 and 2 into node 3 of weight 2. -/
theorem test_merge_of_E1 :
    nextMeets (mergeStep buildingE1) (fun t => t.nodeAt 3 == nodeEntry 2 1 2 && t.q == [0, 3]) := by decide

set_option maxRecDepth 20000 in
/-- V1: the step of COUNT's EOI leaves the leaves, the root and the codes of the table's BUILD and GENCODES rows. -/
theorem test_eoi_step_of_V1 :
    nextMeets (step countedE1) (fun t => t.phase == .wmagic && t.nnodes == 5 && t.root == 4 &&
      t.nodeAt 0 == leafEntry 65 2 && t.nodeAt 2 == leafEntry 256 1 && t.nodeAt 4 == nodeEntry 4 0 3 &&
      (t.code[65]).bitString == [false] && (t.code[66]).bitString == [true, false] &&
      (t.code[256]).bitString == [true, true] && (t.code[67]).len == 0) := by decide
/-- V1: the artifact `M0 M1 M2 M3 48 29 0B 00 2C`. -/
theorem test_artifact_of_V1 :
    bytesOf (padded (bin 32 0x12345678 ++ treeE1.header ++ payload codeV1 [0x41#8, 0x41#8, 0x42#8])) =
      [0x12#8, 0x34#8, 0x56#8, 0x78#8, 0x48#8, 0x29#8, 0x0B#8, 0x00#8, 0x2C#8] := by decide
/-- E1: the codes of the tree. -/
theorem test_codes_of_E1 :
    treeE1.codes = [(65#9, [false]), (66#9, [true, false]), (256#9, [true, true])] := by decide
theorem test_withFetchWord_node :
    nextMeets (step (State.reset.withFetchWord 8 0)) (fun t => t.nnodes == 1 && !(t.nodeAt 0).isLeaf) := by decide
theorem test_withFetchWord_leaf :
    nextMeets (step (State.reset.withFetchWord 16 0x3FF)) (fun t => (t.nodeAt 0).sym == 511#9) := by decide
theorem test_withFetchWord_compress :
    nextMeets (step (State.reset.withFetchWord 32 1)) (fun t => t.phase == .count) := by decide

/-! ### Witnesses: the hypotheses of each statement, met together -/

set_option maxRecDepth 20000 in
theorem inv_base : Inv base := by constructor <;> decide

theorem inv_launched (w : Word) (src : List Byte) : Inv (launched w src) :=
  { inv_base with cursor_le := Nat.zero_le _ }

theorem launch_launched (w : Word) (src : List Byte) : Launch (launched w src) w src :=
  { inv := inv_launched w src, idle := rfl, source := rfl, opened := rfl, distinct := rfl, write := ⟨[], rfl, by simp⟩ }

set_option maxRecDepth 20000 in
theorem inv_closing : Inv (compressing .close .top (source [] 0)) := by constructor <;> decide

set_option maxRecDepth 20000 in
theorem inv_counting : Inv (compressing .count .top (source [] 0)) := by constructor <;> decide

set_option maxRecDepth 20000 in
theorem building_E1 : Building buildingE1 := by constructor <;> decide

set_option maxRecDepth 20000 in
theorem inv_reading_root : Inv (reading 0 .symField (source [0xC0#8, 0x00#8] 1) []) := by constructor <;> decide

set_option maxRecDepth 20000 in
theorem inv_reading_left : Inv (reading 1 .symField (source [0x48#8, 0x29#8] 2) [frame 0 false]) := by
  constructor <;> decide

set_option maxRecDepth 20000 in
theorem inv_reading_right : Inv (reading 512 .top (source [] 0) [frame 0 true]) := by constructor <;> decide

set_option maxRecDepth 20000 in
theorem inv_reading_both : Inv (reading 3 .top (source [] 0) [frame 1 true, frame 0 false]) := by
  constructor <;> decide

theorem holds_E1 : Holds storeE1 4 treeE1 :=
  ⟨rfl, rfl, ⟨rfl, rfl, rfl⟩, rfl, rfl, ⟨rfl, rfl, rfl⟩, rfl, rfl, rfl⟩

theorem witness_ResetEventGivesTheResetState :
    ({ base with inputs := [.host (.reset (source [] 0) base.out)] } : State).hostTurn
        (.reset (source [] 0) base.out) [] ∧
      base.status.busy = false ∧ (compressing .count .top (source [] 0)).status.busy = true ∧ base.aliased = false ∧
      base.inp.ic = 0 ∧ base.out.oc = false :=
  ⟨rfl, rfl, rfl, rfl, rfl, rfl⟩

theorem witness_RegisterWindowReadsAndIgnoredWrites (offset : Nat) (w : Word) :
    ({ base with inputs := [.host (.regRead offset 4)] } : State).hostTurn (.regRead offset 4) [] ∧
      ({ base with inputs := [.host (.regWrite offset 4 w)] } : State).hostTurn (.regWrite offset 4 w) [] :=
  ⟨rfl, rfl⟩

/-- Both clauses meet at the last register's offset and just beyond it, and at a 2-byte access. -/
theorem witness_OtherRegisterAccessesAreRefused :
    (4 = 4 ∧ (0xC = 0x0 ∨ 0xC = 0x4 ∨ 0xC = 0x8 ∨ 0xC = 0xC)) ∧
      ¬ (4 = 4 ∧ (0x10 = 0x0 ∨ 0x10 = 0x4 ∨ 0x10 = 0x8 ∨ 0x10 = 0xC)) ∧
      ¬ (2 = 4 ∧ (0xC = 0x0 ∨ 0xC = 0x4 ∨ 0xC = 0x8 ∨ 0xC = 0xC)) ∧
      ({ base with inputs := [.host (.regRead 0xC 2)] } : State).hostTurn (.regRead 0xC 2) [] ∧
      ({ base with inputs := [.host (.regWrite 0x10 4 0#32)] } : State).hostTurn (.regWrite 0x10 4 0#32) [] :=
  ⟨by decide, by decide, by decide, rfl, rfl⟩

theorem witness_CommandWhileBusyIsLost :
    ({ compressing .count .top (source [] 0) with inputs := [.host (.regWrite 0x0 4 1#32)] } : State).hostTurn
        (.regWrite 0x0 4 1#32) [] ∧ (compressing .count .top (source [] 0)).status.busy = true :=
  ⟨rfl, rfl⟩

theorem witness_CommandWhileBusyIsLost_end :
    Inv (compressing .close .top (source [] 0)) ∧ (compressing .close .top (source [] 0)).status.busy = true ∧
      ∃ t, step (compressing .close .top (source [] 0)) = .next t ∧ t.status.busy = false :=
  ⟨inv_closing, rfl, _, rfl, rfl⟩

theorem witness_CompressIsAccepted :
    base.status.busy = false ∧ base.aliased = false ∧ base.inp.ic = 0 ∧ base.out.oc = false :=
  ⟨rfl, rfl, rfl, rfl⟩

theorem witness_DecompressIsAccepted :
    base.status.busy = false ∧ base.aliased = false ∧ base.out.oc = false :=
  ⟨rfl, rfl, rfl⟩

theorem witness_IllegalWordCompletesAtOnce :
    (0#32 ≠ (1#32 : Word)) ∧ (0#32 ≠ (2#32 : Word)) ∧ (3#32 ≠ (2#32 : Word)) ∧ base.status.busy = false := by decide

/-- One bit past the first, and a closed output with the cursor at the first bit. -/
theorem witness_HostDutiesAtThePorts_launch :
    ({ base with aliased := true } : State).status.busy = false ∧ ({ base with aliased := true } : State).aliased = true ∧
      base.aliased = false ∧ (source [0x41#8] 1).ic ≠ 0 ∧ base.inp.ic = 0 ∧
      ({ base.out with oc := true } : OutPort).oc = true := by decide

theorem witness_HostDutiesAtThePorts_events (s : State) (e : HostEvent) :
    ({ s with inputs := [.host e] } : State).hostTurn e [] ∧ base.status.busy = false ∧ base.out.oc = false ∧
      (compressing .count .top (source [] 0)).status.busy = true :=
  ⟨rfl, rfl, rfl, rfl⟩

/-- The last 8 bits of a source and none after them; the widest write and one wider, on an open and a closed output. -/
theorem witness_HostDutiesAtThePorts_accesses :
    (source [0x41#8] 0).exhausted 8 = false ∧ (source [0x41#8] 8).exhausted 1 = true ∧
      ¬ (7 = 1 ∨ 7 = 8 ∨ 7 = 9 ∨ 7 = 32) ∧ 256 ≤ 256 ∧ 2 ^ 256 - 1 < 2 ^ 256 ∧ 256 < 257 ∧ base.out.oc = false ∧
      ({ base.out with oc := true } : OutPort).oc = true := by decide

theorem witness_DecodeOfEncodeIsTheInstruction : (Instr.illegal 3#32).wf = true ∧ (Instr.leaf 511#9).wf = true := by
  decide

theorem witness_EncodeOfDecodeIsTheBits :
    decode .cmd32 (bin 32 3) = .ok (.illegal 3#32, []) ∧ decode .hdr [false, true] = .ok (.node, [true]) := by decide

theorem witness_StepRunsTheDecodedInstruction_command :
    (launched 1#32 []).hostTurn (.regWrite 0x0 4 1#32) [] ∧ decode .cmd32 (bin 32 1) = .ok (.compress, []) :=
  ⟨rfl, by decide⟩

theorem witness_StepRunsTheDecodedInstruction_flag :
    (reading 0 .top (source [0x40#8] 0) []).served = true ∧ (reading 0 .top (source [0x40#8] 0) []).phase = .rheader ∧
      (reading 0 .top (source [0x40#8] 0) []).pending = .top ∧
      (reading 0 .top (source [0x40#8] 0) []).inp.exhausted 1 = false ∧
      decode .hdr ((reading 0 .top (source [0x40#8] 0) []).inp.ahead.take 1) = .ok (.node, []) := by decide

/-- The symbol field ends at the last bit of the source. -/
theorem witness_StepRunsTheDecodedInstruction_symbol :
    (reading 0 .symField (source [0xC0#8, 0x00#8] 7) []).served = true ∧
      (reading 0 .symField (source [0xC0#8, 0x00#8] 7) []).phase = .rheader ∧
      (reading 0 .symField (source [0xC0#8, 0x00#8] 7) []).pending = .symField ∧
      (reading 0 .symField (source [0xC0#8, 0x00#8] 7) []).inp.exhausted 9 = false ∧
      decode .hdr (true :: (reading 0 .symField (source [0xC0#8, 0x00#8] 7) []).inp.ahead.take 9) =
        .ok (.leaf 0#9, []) := by decide

/-- A COMPRESS of E1 whose header traversal stands at node `i`. -/
def writing (i : NodeIdx) (pe : Pending) : State :=
  { withE1 (compressing .wheader pe (source [] 0)) with hstack := [frame i false] }

theorem witness_StepRunsTheDecodedInstruction_written :
    (writing 4 .top).coreTurn = true ∧ (writing 4 .top).phase = .wheader ∧
      (writing 4 .top).hstack = frame 4 false :: [] := by decide

/-- The last entry that can be allocated. -/
theorem witness_NodeTokenReadAllocatesAnInternalNode :
    (reading 512 .top (source [] 0) []).nnodes < 513 ∧ (reading 512 .top (source [] 0) []).phase = .rheader := by decide

theorem witness_LeafTokenReadAllocatesAndReturnsALeaf_root :
    Inv (reading 0 .symField (source [0xC0#8, 0x00#8] 1) []) ∧
      (reading 0 .symField (source [0xC0#8, 0x00#8] 1) []).nnodes < 513 ∧
      (reading 0 .symField (source [0xC0#8, 0x00#8] 1) []).phase = .rheader ∧
      (reading 0 .symField (source [0xC0#8, 0x00#8] 1) []).hstack = [] :=
  ⟨inv_reading_root, by decide, rfl, rfl⟩

theorem witness_LeafTokenReadAllocatesAndReturnsALeaf_left :
    Inv (reading 1 .symField (source [0x48#8, 0x29#8] 2) [frame 0 false]) ∧
      (reading 1 .symField (source [0x48#8, 0x29#8] 2) [frame 0 false]).phase = .rheader ∧
      (frame 0 false).side = false :=
  ⟨inv_reading_left, rfl, rfl⟩

theorem witness_LeafTokenReadAllocatesAndReturnsALeaf_right :
    Inv (reading 512 .top (source [] 0) [frame 0 true]) ∧
      (reading 512 .top (source [] 0) [frame 0 true]).nnodes < 513 ∧ (frame 0 true).side = true :=
  ⟨inv_reading_right, by decide, rfl⟩

theorem witness_LeafTokenReadAllocatesAndReturnsALeaf_both :
    Inv (reading 3 .top (source [] 0) [frame 1 true, frame 0 false]) ∧
      (frame 1 true).side = true ∧ (frame 0 false).side = false :=
  ⟨inv_reading_both, rfl, rfl⟩

theorem witness_NodeOverflowAtTheAllocation :
    (reading 513 .top (source [] 0) []).phase = .rheader ∧ (reading 513 .top (source [] 0) []).nnodes = 513 :=
  ⟨rfl, rfl⟩

theorem witness_NodeTokenWrittenIsOneZeroBit :
    (writing 4 .top).phase = .wheader ∧ (writing 4 .top).hstack = frame 4 false :: [] ∧
      (writing 4 .top).out.oc = false ∧ (writing 4 .top).draw = .serve := by decide

theorem witness_LeafTokenWrittenIsAOneAndNineBits :
    (writing 0 .top).phase = .wheader ∧ (writing 0 .top).hstack = frame 0 false :: [] ∧
      (writing 0 .top).out.oc = false ∧ (writing 0 .top).draw = .serve ∧ (writing 0 .top).pending ≠ .symField ∧
      (writing 0 .symField).pending = .symField := by decide

/-- The last bit of the last byte. -/
theorem witness_StreamBitsRunFromTheMostSignificant :
    [0x80#8, 0x01#8][1]? = some 0x01#8 ∧ 7 ≤ 7 ∧ 8 ∣ (List.replicate 15 false ++ [true]).length ∧
      (bytesOf (List.replicate 15 false ++ [true]))[1]? = some 0x01#8 := by decide

/-- A field that ends at the end of the source. -/
theorem witness_InReadReturnsTheNextField :
    (9 = 1 ∨ 9 = 8 ∨ 9 = 9 ∨ 9 = 32) ∧ (reading 0 .symField (source [0xC0#8, 0x00#8] 7) []).draw = .serve ∧
      (source [0xC0#8, 0x00#8] 7).eoi = false ∧
      (source [0xC0#8, 0x00#8] 7).ic + 9 ≤ (source [0xC0#8, 0x00#8] 7).size := by decide

/-- One bit too few, and an end of input that holds although bits remain. -/
theorem witness_InReadAtTheEndReturnsEoi :
    (reading 0 .symField (source [0xC0#8, 0x00#8] 8) []).draw = .serve ∧
      (source [0xC0#8, 0x00#8] 8).size < (source [0xC0#8, 0x00#8] 8).ic + 9 ∧
      ({ source [0xC0#8] 0 with eoi := true } : InPort).eoi = true ∧
      (reading 0 .top (source [] 0) []).turn.draw = .serve := by decide

theorem witness_InResetRewinds : (compressing .rewind .top (source [0x41#8] 8)).draw = .serve := by decide

/-- The narrowest field and the widest. -/
theorem witness_OutWriteAppends :
    1 ≤ 1 ∧ 1 ≤ 256 ∧ 1 < 2 ^ 1 ∧ 256 ≤ 256 ∧ 2 ^ 256 - 1 < 2 ^ 256 ∧ base.out.oc = false ∧ base.draw = .serve := by
  refine ⟨by decide, by decide, by decide, by decide, by norm_num, rfl, rfl⟩

theorem witness_OutClosePadsAndDelivers : base.out.oc = false ∧ base.draw = .serve := by decide

theorem witness_TwoWritesAreTheJoinedWrite :
    1 < 2 ^ 1 ∧ 65 < 2 ^ 9 ∧ (∃ t, outWrite 1 1 base = .next (.ok, t) ∧ ∃ u, outWrite 9 65 t = .next (.ok, u)) ∧
      ∃ v, outWrite (1 + 9) (1 * 2 ^ 9 + 65) base = .next (.ok, v) :=
  ⟨by decide, by decide, ⟨_, rfl, _, rfl⟩, _, rfl⟩

/-- What a faulting transaction does in the witnesses. -/
def someEffect : FaultEffect := { cursor := 0, eoi := false, bits := [], sink := [], closed := true }

/-- A state whose next transaction is answered FAULT(7). -/
def faulted (s : State) : State := { s with inputs := [.core (.fault 7#32 someEffect)] }

/-- A state whose next transaction is never answered. -/
def silenced (s : State) : State := { s with inputs := [.core .silent] }

theorem witness_InputFaultRaisesPortFaultIn :
    (faulted (compressing .encode .top (source [] 0))).coreTurn = true ∧
      (faulted (compressing .encode .top (source [] 0))).draw = .fault 7#32 someEffect ∧
      (faulted (compressing .encode .top (source [] 0))).readsNext = true := by decide

theorem witness_OutputFaultRaisesPortFaultOut :
    (faulted (withE1 (compressing .encode (.code 256) (source [] 0)))).coreTurn = true ∧
      (faulted (withE1 (compressing .encode (.code 256) (source [] 0)))).draw = .fault 7#32 someEffect ∧
      (faulted (withE1 (compressing .encode (.code 256) (source [] 0)))).writesNext = true ∧
      (faulted (withE1 (compressing .encode (.code 256) (source [] 0)))).out.oc = false := by decide

theorem witness_SilentPortLeavesTheCoreStuck :
    (silenced base).coreTurn = true ∧ (silenced base).draw = .silent ∧
      (silenced (compressing .count .top (source [] 0))).readsNext = true ∧
      (silenced (compressing .close .top (source [] 0))).phase = .close ∧
      (silenced (compressing .close .top (source [] 0))).out.oc = false ∧
      (silenced (writing 4 .top)).writesNext = true ∧ (silenced (writing 4 .top)).out.oc = false := by decide

theorem witness_ErrorEntryGoesToClose :
    (compressing .count .top (source [] 0)).coreTurn = true ∧
      ∃ t, step (raise .portFaultIn 7#32 (compressing .count .top (source [] 0))) = .next t :=
  ⟨rfl, _, rfl⟩

/-- A state in CLOSE after an error. -/
def closingWithError : State := raise .badSymbol 511#32 (decompressing .decode .top (source [] 0))

theorem witness_CompletionKeepsTheFirstError :
    (compressing .close .top (source [] 0)).coreTurn = true ∧ (compressing .close .top (source [] 0)).phase = .close ∧
      (compressing .close .top (source [] 0)).out.oc = false ∧
      (compressing .close .top (source [] 0)).draw = .serve ∧
      (faulted (compressing .close .top (source [] 0))).draw = .fault 7#32 someEffect ∧
      (faulted (compressing .close .top (source [] 0))).status.errcode = .noError ∧
      (faulted closingWithError).coreTurn = true ∧ (faulted closingWithError).phase = .close ∧
      (faulted closingWithError).out.oc = false ∧ (faulted closingWithError).draw = .fault 7#32 someEffect ∧
      (faulted closingWithError).status.errcode ≠ .noError := by decide

/-- One byte below the limit of `WB = 10`, and at it. -/
theorem witness_CountCountsOneByteOrOverflows :
    (compressing .count .top (source [0x41#8] 0)).served = true ∧
      (compressing .count .top (source [0x41#8] 0)).phase = .count ∧
      (compressing .count .top (source [0x41#8] 0)).inp.exhausted 8 = false ∧
      (1021 ≠ 2 ^ 10 - 2) ∧ 1022 = 2 ^ 10 - 2 := by decide

/-- A core turn that is served. -/
def withTurn (s : State) : State := { s with inputs := [.core .serve] }

theorem withTurn_allServed (s : State) : (withTurn s).allServed := by
  intro x hx
  simpa [withTurn] using hx

theorem witness_CountPassCountsTheSource :
    (withTurn (compressing .count .top (source [0x41#8, 0x41#8] 0))).allServed ∧
      (compressing .count .top (source [0x41#8, 0x41#8] 0)).phase = .count ∧
      (compressing .count .top (source [0x41#8, 0x41#8] 0)).freq = Vector.replicate 256 0 ∧
      (compressing .count .top (source [0x41#8, 0x41#8] 0)).total = 0 ∧
      (compressing .count .top (source [0x41#8, 0x41#8] 0)).inp = { src := [0x41#8, 0x41#8], ic := 0, eoi := false } ∧
      [0x41#8, 0x41#8].length ≤ 2 ^ 64 - 2 :=
  ⟨withTurn_allServed _, rfl, rfl, rfl, rfl, by decide⟩

theorem witness_ExtractionTakesTheLeastWeightAndIndex : ([0, 1] : List NodeIdx) ≠ [] := by decide

theorem witness_MergeJoinsTheTwoLightestNodes : Building buildingE1 ∧ 2 ≤ buildingE1.q.length :=
  ⟨building_E1, by decide⟩

theorem witness_BuildNeverStopsAndWeightsFit_seeding :
    Inv (compressing .count .top (source [] 0)) ∧ (compressing .count .top (source [] 0)).served = true ∧
      (compressing .count .top (source [] 0)).phase = .count ∧
      (compressing .count .top (source [] 0)).inp.exhausted 8 = true :=
  ⟨inv_counting, rfl, rfl, rfl⟩

theorem witness_BuildNeverStopsAndWeightsFit : Building buildingE1 ∧ 2 ∈ buildingE1.q := ⟨building_E1, by decide⟩

set_option maxRecDepth 20000 in
theorem witness_BuildMakesTheTreeOfTheCounts :
    Inv (compressing .count .top (source [] 0)) ∧ (compressing .count .top (source [] 0)).served = true ∧
      (compressing .count .top (source [] 0)).phase = .count ∧
      (compressing .count .top (source [] 0)).inp.exhausted 8 = true ∧
      (compressing .count .top (source [] 0)).total = 0 ∧
      (countedLeaves (compressing .count .top (source [] 0)).freq)[0]? = some (sentinel, 1) :=
  ⟨inv_counting, rfl, rfl, rfl, rfl, by decide⟩

theorem witness_GencodesGivesTheTreePaths :
    Holds (withE1 base).node (withE1 base).root treeE1 ∧ treeE1.symbols.Nodup ∧
      (∀ x ∈ treeE1.symbols, x.toNat ≤ 256) ∧ (∀ x ∈ treeE1.paths, x.2.length ≤ 256) :=
  ⟨holds_E1, by decide, by decide, by decide⟩

set_option maxRecDepth 20000 in
/-- V1's table is the code table of E1's tree, and two of its symbols have codes. -/
theorem witness_CodesOfATreeArePrefixFree :
    CodesAre codeV1 treeE1.codes ∧ (65 : Fin 257) ≠ 66 ∧ (codeV1[65]).len ≠ 0 ∧ (codeV1[66]).len ≠ 0 := by
  have other : ∀ k : Fin 257, k ≠ 65 → k ≠ 66 → k ≠ 256 → (codeV1[k.val]).len = 0 := by decide
  have symbol : ∀ k j : Fin 257, BitVec.ofNat 9 k.val = BitVec.ofNat 9 j.val → k = j := by
    intro k j h
    have := congrArg BitVec.toNat h
    simp only [BitVec.toNat_ofNat] at this
    exact Fin.ext (by omega)
  have codes : treeE1.codes = [(65#9, [false]), (66#9, [true, false]), (256#9, [true, true])] := by decide
  refine ⟨⟨?_, ?_⟩, by decide, by decide, by decide⟩
  · intro k p h
    rw [codes] at h
    simp only [List.mem_cons, List.not_mem_nil, or_false, Prod.mk.injEq] at h
    rcases h with ⟨hk, rfl⟩ | ⟨hk, rfl⟩ | ⟨hk, rfl⟩
    · obtain rfl := symbol k 65 hk; decide
    · obtain rfl := symbol k 66 hk; decide
    · obtain rfl := symbol k 256 hk; decide
  · intro k h
    rw [codes] at h
    refine other k ?_ ?_ ?_ <;> rintro rfl
    · exact h [false] (by decide)
    · exact h [true, false] (by decide)
    · exact h [true, true] (by decide)

theorem witness_WriteMagicWritesTheConstant :
    (compressing .wmagic .top (source [] 0)).served = true ∧ (compressing .wmagic .top (source [] 0)).phase = .wmagic ∧
      (compressing .wmagic .top (source [] 0)).out.oc = false := by decide

theorem witness_WriteHeaderWritesThePreorder :
    (withTurn (writing 4 .top)).allServed ∧ (writing 4 .top).phase = .wheader ∧ (writing 4 .top).pending = .top ∧
      (writing 4 .top).hstack = [{ node := (writing 4 .top).root, side := false }] ∧
      (writing 4 .top).out.oc = false ∧ Holds (writing 4 .top).node (writing 4 .top).root treeE1 :=
  ⟨withTurn_allServed _, rfl, rfl, rfl, rfl, holds_E1⟩

theorem witness_RewindGoesBackToTheFirstByte :
    (compressing .rewind .top (source [0x41#8] 8)).served = true ∧
      (compressing .rewind .top (source [0x41#8] 8)).phase = .rewind := by decide

/-- E1 in ENCODE. -/
def encoding (pe : Pending) (src : List Byte) : State := withE1 (compressing .encode pe (source src 0))

theorem witness_EncodeWritesOneCodePerByte :
    (encoding .top [0x41#8]).served = true ∧ (encoding .top [0x41#8]).phase = .encode ∧
      (encoding .top []).inp.exhausted 8 = true ∧ (encoding .top [0x41#8]).inp.exhausted 8 = false ∧
      (encoding .top [0x43#8]).inp.field 8 = 0x43 ∧ (codeV1[(byteIndex 0x43#8).val]).len = 0 ∧
      (encoding .top [0x41#8]).inp.field 8 = 0x41 ∧ (codeV1[(byteIndex 0x41#8).val]).len ≠ 0 ∧
      (encoding (.code 256) []).pending = .code 256 ∧ (encoding (.code 256) []).out.oc = false ∧
      (codeV1[256]).len ≠ 0 := by decide

theorem witness_EncodePassWritesThePayload :
    (withTurn (encoding .top [0x41#8])).allServed ∧ (encoding .top [0x41#8]).phase = .encode ∧
      (encoding .top [0x41#8]).pending = .top ∧
      (encoding .top [0x41#8]).inp = { src := [0x41#8], ic := 0, eoi := false } ∧
      (encoding .top [0x41#8]).out.oc = false ∧
      (∀ b ∈ [0x41#8], (codeV1[(byteIndex b).val]).len ≠ 0) ∧ (codeV1[sentinelIndex.val]).len ≠ 0 :=
  ⟨withTurn_allServed _, rfl, rfl, rfl, rfl, by decide, by decide⟩

/-- A match, a mismatch, and a source one byte short. -/
theorem witness_ReadMagicComparesWithTheConstant :
    (decompressing .rmagic .top (source [0x12#8, 0x34#8, 0x56#8, 0x78#8] 0)).served = true ∧
      (decompressing .rmagic .top (source [0x12#8, 0x34#8, 0x56#8, 0x78#8] 0)).phase = .rmagic ∧
      (source [0x12#8, 0x34#8, 0x56#8] 0).exhausted 32 = true ∧
      (source [0x12#8, 0x34#8, 0x56#8, 0x78#8] 0).exhausted 32 = false ∧
      (source [0x12#8, 0x34#8, 0x56#8, 0x78#8] 0).field 32 = base.magic.toNat ∧
      (source [0x12#8, 0x34#8, 0x56#8, 0x79#8] 0).exhausted 32 = false ∧
      (source [0x12#8, 0x34#8, 0x56#8, 0x79#8] 0).field 32 ≠ base.magic.toNat := by decide

/-- A DECOMPRESS about to be launched on an input port as it stands. -/
def launchedAt (p : InPort) : State := { launched 2#32 [] with inp := p }

theorem ready_launchedAt (p : InPort) (h : p.ic ≤ p.size) : Ready (launchedAt p) 2#32 :=
  { inv := { inv_base with cursor_le := h }, idle := rfl, opened := rfl, distinct := rfl, write := ⟨[], rfl, by simp⟩ }

/-- A source too short, and P4's launch after an EOI. -/
theorem witness_BadMagicEndsDecompress :
    Ready (launchedAt (source [0x41#8] 0)) 2#32 ∧
      (source [0x41#8] 0).ahead.take 32 ≠ bin 32 (launchedAt (source [0x41#8] 0)).magic.toNat ∧
      Ready (launchedAt { source [] 0 with eoi := true }) 2#32 ∧ ({ source [] 0 with eoi := true } : InPort).eoi = true :=
  ⟨ready_launchedAt _ (by decide), by decide, ready_launchedAt _ (by decide), rfl⟩

theorem witness_TruncatedHeaderAtTheEndOfInput :
    (reading 0 .top (source [] 0) []).served = true ∧ (reading 0 .top (source [] 0) []).phase = .rheader ∧
      (reading 0 .top (source [] 0) []).pending = .top ∧ (reading 0 .top (source [] 0) []).inp.exhausted 1 = true ∧
      (reading 0 .symField (source [0xC0#8] 1) []).pending = .symField ∧
      (reading 0 .symField (source [0xC0#8] 1) []).inp.exhausted 9 = true := by decide

/-- V2's header, the single sentinel leaf. -/
theorem witness_ReadHeaderRebuildsTheTree :
    (withTurn (reading 0 .top (source [0xC0#8, 0x00#8] 0) [])).allServed ∧
      (reading 0 .top (source [0xC0#8, 0x00#8] 0) []).phase = .rheader ∧
      (reading 0 .top (source [0xC0#8, 0x00#8] 0) []).pending = .top ∧
      (reading 0 .top (source [0xC0#8, 0x00#8] 0) []).hstack = [] ∧
      (reading 0 .top (source [0xC0#8, 0x00#8] 0) []).nnodes = 0 ∧ (source [0xC0#8, 0x00#8] 0).eoi = false ∧
      (source [0xC0#8, 0x00#8] 0).ic ≤ (source [0xC0#8, 0x00#8] 0).size ∧
      (source [0xC0#8, 0x00#8] 0).ahead = (Tree.leaf sentinel 1).header ++ List.replicate 6 false ∧
      (Tree.leaf sentinel 1).size ≤ 513 :=
  ⟨withTurn_allServed _, rfl, rfl, rfl, rfl, rfl, by decide, by decide, by decide⟩

/-- E1 in DECODE, at a node. -/
def decoding (pe : Pending) (cur : NodeIdx) (src : List Byte) : State :=
  { withE1 (decompressing .decode pe (source src 0)) with cur := cur }

/-- A node store whose nodes 0 and 1 are the leaves 255 and 257. -/
def edgeStore : Vector NodeEntry 513 := (State.reset.node.set 0 (leafEntry 255 0)).set 1 (leafEntry 257 0)

theorem witness_DecodeWalksOneEdgePerBit :
    (decoding .top 4 [0x2C#8]).served = true ∧ (decoding .top 4 [0x2C#8]).phase = .decode ∧
      (decoding .top 4 [0x2C#8]).pending = .top ∧ (decoding .top 4 []).inp.exhausted 1 = true ∧
      (decoding .top 4 [0x2C#8]).inp.exhausted 1 = false ∧
      ((decoding .top 4 [0x80#8]).nodeAt 3).isLeaf = false ∧
      ((decoding .top 3 [0x80#8]).nodeAt 2).isLeaf = true ∧ ((decoding .top 3 [0x80#8]).nodeAt 2).sym.toNat = 256 ∧
      edgeStore[1].isLeaf = true ∧ 256 < edgeStore[1].sym.toNat ∧
      edgeStore[0].isLeaf = true ∧ edgeStore[0].sym.toNat < 256 ∧
      (decoding (.literal 65#8) 4 []).pending = .literal 65#8 ∧ (decoding (.literal 65#8) 4 []).out.oc = false := by
  decide

/-- The sentinel's code of V1, at the start of a payload. -/
theorem witness_DecodeOfACodeReachesItsLeaf :
    (withTurn (decoding .top 4 [0xC0#8])).allServed ∧ (decoding .top 4 [0xC0#8]).phase = .decode ∧
      (decoding .top 4 [0xC0#8]).pending = .top ∧ (decoding .top 4 [0xC0#8]).cur = (decoding .top 4 [0xC0#8]).root ∧
      Holds (decoding .top 4 [0xC0#8]).node (decoding .top 4 [0xC0#8]).root treeE1 ∧
      (256#9, [true, true]) ∈ treeE1.codes ∧ (decoding .top 4 [0xC0#8]).inp.eoi = false ∧
      (decoding .top 4 [0xC0#8]).inp.ic ≤ (decoding .top 4 [0xC0#8]).inp.size ∧
      (decoding .top 4 [0xC0#8]).inp.ahead = [true, true] ++ List.replicate 6 false :=
  ⟨withTurn_allServed _, rfl, rfl, rfl, holds_E1, by decide, rfl, by decide, by decide⟩

theorem witness_NoStepChangesTheBuildConstants : ∃ t, step (launched 1#32 [0x41#8]) = .next t := ⟨_, rfl⟩

theorem witness_OnlyTheStatedEventsWriteStatus :
    Inv (launched 1#32 [0x41#8]) ∧ ∃ t, step (launched 1#32 [0x41#8]) = .next t ∧ t.status = Status.accepted :=
  ⟨inv_launched _ _, _, rfl, rfl⟩

set_option maxRecDepth 20000 in
/-- An edge, and the step of COUNT's EOI; each of its parts answers a next state. -/
theorem witness_PhaseMovesOnlyAlongTheEdges :
    Inv (compressing .close .top (source [] 0)) ∧
      (∃ t, step (compressing .close .top (source [] 0)) = .next t ∧ t.phase = .idle) ∧
      nextMeets (step countedE1) (fun t => t.phase == .wmagic) ∧
      nextMeets (startBuild countedE1) (fun _ => true) ∧ nextMeets (mergeAll 3 buildingE1) (fun _ => true) ∧
      nextMeets (visit 1 0 [false] (withE1 base)) (fun _ => true) ∧ nextMeets (gencodes (withE1 base)) (fun _ => true) :=
  ⟨inv_closing, ⟨_, rfl, rfl⟩, by decide, by decide, by decide, by decide, by decide⟩

set_option maxRecDepth 20000 in
theorem witness_AStepIssuesAtMostOneTransaction :
    (compressing .close .top (source [] 0)).coreTurn = true ∧
      (∃ t, step (compressing .close .top (source [] 0)) = .next t) ∧
      (compressing .encode .top (source [] 0)).readsNext = true ∧ (writing 4 .top).writesNext = true ∧
      (launched 1#32 [0x41#8]).coreTurn = false ∧ (∃ t, step (launched 1#32 [0x41#8]) = .next t) ∧
      nextMeets (build countedE1) (fun _ => true) ∧ nextMeets (gencodes (withE1 base)) (fun _ => true) :=
  ⟨rfl, ⟨_, rfl⟩, rfl, rfl, rfl, ⟨_, rfl⟩, by decide, by decide⟩

theorem witness_EveryStepKeepsTheInvariant :
    Inv (reading 1 .symField (source [0x48#8, 0x29#8] 2) [frame 0 false]) ∧
      ∃ t, step (reading 1 .symField (source [0x48#8, 0x29#8] 2) [frame 0 false]) = .next t :=
  ⟨inv_reading_left, _, rfl⟩

theorem witness_CompressWritesTheArtifact :
    Launch (launched 1#32 [0x41#8]) 1#32 [0x41#8] ∧ [0x41#8].length ≤ 2 ^ (launched 1#32 [0x41#8]).wb - 2 :=
  ⟨launch_launched _ _, by decide⟩

/-- V2: the empty source, and its artifact `M0 M1 M2 M3 C0 00`, behind one byte and before another. -/
theorem witness_DecompressOfCompressIsTheSource :
    Launch (launched 1#32 []) 1#32 [] ∧ ([] : List Byte).length ≤ 2 ^ (launched 1#32 []).wb - 2 ∧
      Ready (launchedAt (source [0x41#8, 0x12#8, 0x34#8, 0x56#8, 0x78#8, 0xC0#8, 0x00#8, 0x42#8] 8)) 2#32 ∧
      (source [0x41#8, 0x12#8, 0x34#8, 0x56#8, 0x78#8, 0xC0#8, 0x00#8, 0x42#8] 8).eoi = false ∧
      (source [0x41#8, 0x12#8, 0x34#8, 0x56#8, 0x78#8, 0xC0#8, 0x00#8, 0x42#8] 8).ahead =
        bitsOf [0x12#8, 0x34#8, 0x56#8, 0x78#8, 0xC0#8, 0x00#8] ++ bitsOf [0x42#8] ∧
      (launchedAt (source [0x41#8, 0x12#8, 0x34#8, 0x56#8, 0x78#8, 0xC0#8, 0x00#8, 0x42#8] 8)).magic =
        (launched 1#32 []).magic :=
  ⟨launch_launched _ _, by decide, ready_launchedAt _ (by decide), rfl, by decide, rfl⟩

/-- Each of the three kinds of word, and a DECOMPRESS from a later bit. -/
theorem witness_EveryCommandCompletes :
    Ready (launched 1#32 [0x41#8]) 1#32 ∧ (launched 1#32 [0x41#8]).inp.ic = 0 ∧
      Ready (launchedAt (source [0x41#8] 3)) 2#32 ∧ ¬ (2#32 = (1#32 : Word)) ∧
      Ready (launched 0#32 []) 0#32 ∧ ¬ (0#32 = (1#32 : Word)) ∧ ∀ d ∈ [Draw.serve, Draw.fault 7#32 someEffect], d ≠ .silent :=
  ⟨(launch_launched _ _).toReady, rfl, ready_launchedAt _ (by decide), by decide, (launch_launched _ _).toReady, by decide,
    by decide⟩

/-- Two machines that differ in the node store, the code table and STATUS. -/
def afterAnother : State :=
  { launched 1#32 [0x41#8] with
    status := { busy := false, done := true, err := false, errcode := .noError }
    node := storeE1
    nnodes := 5
    code := codeV1 }

set_option maxRecDepth 20000 in
theorem inv_afterAnother : Inv afterAnother := by constructor <;> decide

theorem witness_NothingOfAnEarlierCommandIsRead :
    Inv (launched 1#32 [0x41#8]) ∧ Inv afterAnother ∧ (launched 1#32 [0x41#8]).phase = .idle ∧
      afterAnother.phase = .idle ∧ (launched 1#32 [0x41#8]).hostTurn (.regWrite 0x0 4 1#32) [] ∧
      afterAnother.inputs = (launched 1#32 [0x41#8]).inputs ∧ afterAnother.magic = (launched 1#32 [0x41#8]).magic ∧
      afterAnother.wb = (launched 1#32 [0x41#8]).wb ∧ afterAnother.inp = (launched 1#32 [0x41#8]).inp ∧
      afterAnother.out = (launched 1#32 [0x41#8]).out ∧ afterAnother.aliased = (launched 1#32 [0x41#8]).aliased ∧
      afterAnother.hostData = (launched 1#32 [0x41#8]).hostData ∧
      afterAnother.freeIdx = (launched 1#32 [0x41#8]).freeIdx :=
  ⟨inv_launched _ _, inv_afterAnother, rfl, rfl, rfl, rfl, rfl, rfl, rfl, rfl, rfl, rfl, rfl⟩

end Sys2Proof.Tests
end

/-! ## Scope (00_scope.md R12): what one step can do, said once, and what every step keeps

`CoreMove` and `HostMove` list the moves of a step, `coreStep_moves` and `hostStep_moves` find a step's move, and a property
of all steps is then a case analysis of the moves: the record of transactions, and the invariant. -/
namespace Sys2Proof.Machine

variable {s t u : State}

/-! ### Transactions -/

/-- `u` is `s` once transaction `x` has been issued: it is seen after all before it, and outside the ports, the turn and the
free values nothing has changed (R12, R87). -/
structure Issues (s u : State) (x : Transaction) : Prop where
  frame : u = { s with
    inp := u.inp, out := u.out, inputs := u.inputs, freeIdx := u.freeIdx, trace := s.trace ++ [x] }
  cursor : s.inp.ic ≤ s.inp.size → u.inp.ic ≤ u.inp.size

/-- A transaction other than OutClose has been issued: the output is as open as it was (R78). -/
structure Transacts (s u : State) (x : Transaction) : Prop extends Issues s u x where
  output : u.out.oc = s.out.oc

theorem Issues.phase {x : Transaction} (h : Issues s u x) : u.phase = s.phase := by
  rw [h.frame]

theorem Issues.trace {x : Transaction} (h : Issues s u x) : u.trace = s.trace ++ [x] := by
  rw [h.frame]

theorem turn_frame (s : State) : s.turn = { s with inputs := s.turn.inputs } := by
  unfold State.turn; split <;> rfl

theorem issues_of_turn {x : Transaction} {p : InPort} {o : OutPort} {k : Nat}
    (hc : s.inp.ic ≤ s.inp.size → p.ic ≤ p.size) :
    Issues s { s.turn.record x with inp := p, out := o, freeIdx := k } x where
  frame := by rw [turn_frame]; rfl
  cursor := hc

theorem inRead_transacts {n : Nat} {a : InAnswer} (h : inRead n s = .next (a, u)) : Transacts s u (.inRead n a) := by
  obtain ⟨c, e, -, hr⟩ | ⟨-, -, hr⟩ | ⟨-, hx, hr⟩ := inRead_cases h <;> obtain ⟨rfl, rfl⟩ := Prod.mk.inj hr
  · exact ⟨issues_of_turn fun _ => afterFault_cursor_le _ _, by simp⟩
  · exact ⟨issues_of_turn fun _ => afterEoi_cursor_le _ _, by simp⟩
  · exact ⟨issues_of_turn fun _ => (not_exhausted_iff.mp hx).2, by simp⟩

theorem inRead_val_lt {n v : Nat} (h : inRead n s = .next (.val v, u)) : v < 2 ^ n := by
  obtain ⟨c, e, -, hr⟩ | ⟨-, -, hr⟩ | ⟨-, -, hr⟩ := inRead_cases h
  · cases hr
  · cases hr
  · cases hr; exact field_lt

theorem inReset_transacts {a : AckAnswer} (h : inReset s = .next (a, u)) : Transacts s u (.inReset a) := by
  obtain ⟨c, e, -, hr⟩ | ⟨-, hr⟩ := inReset_cases h <;> obtain ⟨rfl, rfl⟩ := Prod.mk.inj hr
  · exact ⟨issues_of_turn fun _ => afterFault_cursor_le _ _, by simp⟩
  · exact ⟨issues_of_turn fun _ => Nat.zero_le _, by simp⟩

theorem outWrite_transacts {n v : Nat} {a : AckAnswer} (h : outWrite n v s = .next (a, u)) :
    Transacts s u (.outWrite n v a) := by
  obtain ⟨-, -, -, ⟨c, e, -, hr⟩ | ⟨-, hr⟩⟩ := outWrite_cases h <;> obtain ⟨rfl, rfl⟩ := Prod.mk.inj hr
  · exact ⟨issues_of_turn (by simp), rfl⟩
  · exact ⟨issues_of_turn (by simp), by simp⟩

theorem outClose_issues {a : AckAnswer} (h : outClose s = .next (a, u)) : Issues s u (.outClose a) := by
  obtain ⟨-, ⟨c, e, -, hr⟩ | ⟨-, hr⟩⟩ := outClose_cases h <;> obtain ⟨rfl, rfl⟩ := Prod.mk.inj hr
  · exact issues_of_turn (by simp)
  · exact issues_of_turn (by simp)

/-! ### BUILD and GENCODES: the frame -/

/-- BUILD's loop ends with an empty Q, and no merge takes NNODES past NODE_CAP (R200, R42). -/
theorem mergeAll_end (size : Nat) (h : mergeAll size s = .next t) :
    t.q = [] ∧ (s.nnodes ≤ 513 → t.nnodes ≤ 513) := by
  induction size generalizing s with
  | zero => exact absurd h (by simp [mergeAll])
  | succ size ih =>
    unfold mergeAll at h
    split at h
    · exact absurd h (by simp)
    · obtain rfl := Host.Outcome.next.inj h
      exact ⟨rfl, id⟩
    · obtain ⟨v, hv, ht⟩ := andThen_eq_next h
      obtain ⟨a, c, hn, -, -, -, -, rfl⟩ := mergeStep_cases hv
      obtain ⟨hq, hle⟩ := ih ht
      exact ⟨hq, fun _ => hle hn⟩

/-- BUILD changes PHASE, the node store, NNODES, Q and ROOT, and nothing else; it ends with an empty Q and at most NODE_CAP
nodes (R200, R42). -/
theorem build_frame (h : build s = .next t) :
    t = { s with phase := .build, node := t.node, nnodes := t.nnodes, q := [], root := t.root } ∧ t.nnodes ≤ 513 := by
  obtain ⟨v, hv, hm⟩ := andThen_eq_next h
  have hseed : Seeded { s with phase := .build, nnodes := 0, q := [] } := ⟨.nil, by simp, Nat.zero_le _⟩
  obtain ⟨w, hw, hall, -, -, -, hwframe⟩ := seedAll_spec (seedLeaves s.freq) hseed
    (by have := seedLeaves_length s.freq; simp only []; omega)
  simp only [startBuild, hw, Host.Outcome.next.injEq] at hv
  subst hv
  obtain ⟨hq, hle⟩ := mergeAll_end _ hm
  refine ⟨?_, hle hall.le⟩
  rw [mergeAll_frame _ hm, hq, hwframe]

theorem setCode_frame {sym : Symbol} {p : List Bool} (h : setCode sym p s = .next t) :
    t = { s with code := t.code } := by
  unfold setCode at h
  split at h
  · split at h
    · obtain rfl := Host.Outcome.next.inj h; rfl
    · exact absurd h (by simp)
  · exact absurd h (by simp)

theorem assignCodes_frame (h : assignCodes s = .next t) : t = { s with code := t.code } := by
  unfold assignCodes at h
  split at h
  · exact setCode_frame h
  · exact visit_frame _ h

/-- GENCODES changes CODE, and leads to WMAGIC (R230, R158). -/
theorem gencodes_frame (h : gencodes s = .next t) : t = { s with phase := .wmagic, pending := .top, code := t.code } := by
  obtain ⟨v, hv, ht⟩ := andThen_eq_next h
  obtain rfl := Host.Outcome.next.inj ht
  rw [assignCodes_frame hv]; rfl

/-! ### What follows a transaction -/

/-- The values of ERRINFO an error is raised with (R36, R310). -/
def ErrCode.raisedWith : ErrCode → Word → Prop
  | .noError, _ => False
  | .badSymbol, info => 257 ≤ info.toNat ∧ info.toNat ≤ 511
  | .noCode, info => info.toNat < 256
  | .badMagic, _ | .portFaultIn, _ | .portFaultOut, _ => True
  | .truncatedHeader, info | .truncatedPayload, info | .nodeOverflow, info | .countOverflow, info
  | .illegalCommand, info => info = 0#32

/-- The edges of the sequencer (R158), loops included, on which the core changes no memory but HSTACK. -/
def Phase.goesOn : Phase → Phase → Bool
  | .wmagic, .wheader | .wheader, .wheader | .wheader, .rewind | .rewind, .encode => true
  | .encode, .encode | .encode, .close | .decode, .decode | .decode, .close => true
  | _, _ => false

/-- What the core can do between the answer of a transaction other than OutClose and its next transaction (R12). -/
inductive Continues (u : State) : State → Prop where
  /-- Error entry (R320). -/
  | raised {e : ErrCode} {info : Word} (hp : u.phase ≠ .idle ∧ u.phase ≠ .close) (he : e.raisedWith info) :
    Continues u (raise e info u)
  /-- A byte is counted (R180). -/
  | counted {b : Byte} (hp : u.phase = .count) (ht : u.total ≠ 2 ^ u.wb - 2) : Continues u (countByte b u)
  /-- COUNT's end, with BUILD and GENCODES (R200, R230). -/
  | built {v t : State} (hp : u.phase = .count) (hb : build u = .next v) (hg : gencodes v = .next t) : Continues u t
  /-- Header writing, REWIND, ENCODE and DECODE go on, or end (R250, R280, R281, R285). -/
  | wentOn {p : Phase} {d : Pending} {k : List Frame} {c : NodeIdx} (hp : u.phase.goesOn p = true)
    (hd : u.pending.fits u.phase = true → d.fits p = true) :
    Continues u { u with phase := p, pending := d, hstack := k, cur := c }
  /-- MAGIC matched: header reading starts (R265, R254). -/
  | magicRead (hp : u.phase = .rmagic) : Continues u (startReadHeader u)
  /-- A LEAF token's flag is read (R254). -/
  | flagRead (hp : u.phase = .rheader) : Continues u { u with pending := .symField }
  /-- A NODE token is read: entry NNODES is allocated for it, and its left subtree is next (R255). -/
  | nodeRead {e : NodeEntry} (hp : u.phase = .rheader) (hn : u.nnodes < 513) :
    Continues u { u with
      nnodes := u.nnodes + 1, node := u.node.set u.nnodes e,
      hstack := pendingNode ⟨u.nnodes, hn⟩ :: u.hstack, pending := .top }
  /-- A LEAF token is read: entry NNODES is allocated for it and delivered (R256). -/
  | leafRead {sym : Symbol} (hp : u.phase = .rheader) (hn : u.nnodes < 513) :
    Continues u (deliver ⟨u.nnodes, hn⟩ u.hstack (State.setLeaf { u with nnodes := u.nnodes + 1 } ⟨u.nnodes, hn⟩ sym 0))

/-- The core issues one transaction other than OutClose and goes on to its next one. -/
def Proceeds (s t : State) : Prop :=
  ∃ u x, Transacts s u x ∧ Continues u t

theorem proceeds_of_inRead {n : Nat} {f : InAnswer × State → Host.Outcome State Fault Refusal}
    (hs : andThen (inRead n s) f = .next t)
    (hf : ∀ a u, u.phase = s.phase → (∀ v, a = .val v → v < 2 ^ n) → f (a, u) = .next t → Continues u t) :
    Proceeds s t := by
  obtain ⟨⟨a, u⟩, ha, ht⟩ := andThen_eq_next hs
  have hx := inRead_transacts ha
  exact ⟨u, _, hx, hf a u hx.phase (fun v hv => inRead_val_lt (hv ▸ ha)) ht⟩

theorem proceeds_of_inReset {f : AckAnswer × State → Host.Outcome State Fault Refusal}
    (hs : andThen (inReset s) f = .next t)
    (hf : ∀ a u, u.phase = s.phase → f (a, u) = .next t → Continues u t) : Proceeds s t := by
  obtain ⟨⟨a, u⟩, ha, ht⟩ := andThen_eq_next hs
  have hx := inReset_transacts ha
  exact ⟨u, _, hx, hf a u hx.phase ht⟩

theorem proceeds_of_outWrite {n v : Nat} {f : AckAnswer × State → Host.Outcome State Fault Refusal}
    (hs : andThen (outWrite n v s) f = .next t)
    (hf : ∀ a u, u.phase = s.phase → f (a, u) = .next t → Continues u t) : Proceeds s t := by
  obtain ⟨⟨a, u⟩, ha, ht⟩ := andThen_eq_next hs
  have hx := outWrite_transacts ha
  exact ⟨u, _, hx, hf a u hx.phase ht⟩

/-- A phase that ends in an error goes on with error entry. -/
theorem continues_of_raise {e : ErrCode} {info : Word} {p : Phase} (hu : u.phase = p)
    (ht : Host.Outcome.next (φ := Fault) (ρ := Refusal) (raise e info u) = .next t)
    (he : e.raisedWith info) (hp : p ≠ .idle ∧ p ≠ .close := by decide) : Continues u t := by
  obtain rfl := Host.Outcome.next.inj ht
  exact .raised (hu ▸ hp) he

/-- A phase that only moves on. -/
theorem continues_of_wentOn {p : Phase} {d : Pending} {k : List Frame} {c : NodeIdx} {q : Phase} (hu : u.phase = q)
    (ht : Host.Outcome.next (φ := Fault) (ρ := Refusal)
      { u with phase := p, pending := d, hstack := k, cur := c } = .next t)
    (hp : q.goesOn p = true) (hd : d.fits p = true) : Continues u t := by
  obtain rfl := Host.Outcome.next.inj ht
  exact .wentOn (hu ▸ hp) fun _ => hd

/-- A phase that stays in its loop. -/
theorem continues_of_inPhase {d : Pending} {c : NodeIdx} {q : Phase} (hu : u.phase = q)
    (ht : Host.Outcome.next (φ := Fault) (ρ := Refusal) { u with pending := d, cur := c } = .next t)
    (hp : q.goesOn q = true) (hd : d.fits q = true) : Continues u t := by
  subst hu
  exact continues_of_wentOn rfl ht hp hd

/-! ### The phases -/

theorem countStep_proceeds (hp : s.phase = .count) (hs : countStep s = .next t) : Proceeds s t := by
  refine proceeds_of_inRead hs fun a u hu _ ht => ?_
  rw [hp] at hu
  cases a with
  | fault c => exact continues_of_raise hu ht trivial
  | eoi =>
    obtain ⟨v, hb, hg⟩ := andThen_eq_next ht
    exact .built hu hb hg
  | val v =>
    simp only at ht
    split at ht
    · exact continues_of_raise hu ht rfl
    · next hlt =>
      obtain rfl := Host.Outcome.next.inj ht
      exact .counted hu hlt

theorem writeMagicStep_proceeds (hp : s.phase = .wmagic) (hs : writeMagicStep s = .next t) : Proceeds s t := by
  refine proceeds_of_outWrite hs fun a u hu ht => ?_
  rw [hp] at hu
  cases a with
  | fault c => exact continues_of_raise hu ht trivial
  | ok => exact continues_of_wentOn hu ht rfl rfl

theorem execNode_of_wheader (hp : s.phase = .wheader) : execNode s = writeNodeToken s := by
  simp [execNode, hp]

theorem execNode_of_rheader (hp : s.phase = .rheader) : execNode s = readNodeToken s := by
  simp [execNode, hp]

theorem execLeaf_of_wheader {sym : Symbol} (hp : s.phase = .wheader) : execLeaf sym s = writeLeafToken sym s := by
  simp [execLeaf, hp]

theorem execLeaf_of_rheader {sym : Symbol} (hp : s.phase = .rheader) : execLeaf sym s = readLeafToken sym s := by
  simp [execLeaf, hp]

theorem writeNodeToken_proceeds (hp : s.phase = .wheader) (hs : writeNodeToken s = .next t) : Proceeds s t := by
  unfold writeNodeToken at hs
  split at hs
  · exact absurd hs (by simp)
  refine proceeds_of_outWrite hs fun a u hu ht => ?_
  rw [hp] at hu
  cases a with
  | fault c => exact continues_of_raise hu ht trivial
  | ok =>
    obtain rfl := Host.Outcome.next.inj ht
    exact .wentOn (by rw [hu]; rfl) id

theorem writeLeafToken_proceeds {sym : Symbol} (hp : s.phase = .wheader) (hs : writeLeafToken sym s = .next t) :
    Proceeds s t := by
  unfold writeLeafToken at hs
  split at hs
  · exact absurd hs (by simp)
  next rest _ =>
  split at hs <;> refine proceeds_of_outWrite hs fun a u hu ht => ?_ <;> rw [hp] at hu
  · cases a with
    | fault c => exact continues_of_raise hu ht trivial
    | ok => exact continues_of_wentOn hu ht (by cases rest <;> rfl) rfl
  · cases a with
    | fault c => exact continues_of_raise hu ht trivial
    | ok =>
      obtain rfl := Host.Outcome.next.inj ht
      exact .wentOn (by rw [hu]; rfl) fun _ => by rw [hu]; rfl

/-- Header writing issues the flag or the symbol field of the pending node's token, if a node is pending (R250). -/
theorem writeHeaderStep_proceeds (hp : s.phase = .wheader) (hs : writeHeaderStep s = .next t) :
    (s.hstack = [] ∧ t = headerWritten [] s.turn) ∨ Proceeds s t := by
  unfold writeHeaderStep at hs
  split at hs
  · next hk => exact .inl ⟨hk, (Host.Outcome.next.inj hs).symm⟩
  next f rest _ =>
  unfold NodeEntry.token at hs
  split at hs
  · exact .inr (writeLeafToken_proceeds hp ((execLeaf_of_wheader hp).symm.trans hs))
  · exact .inr (writeNodeToken_proceeds hp ((execNode_of_wheader hp).symm.trans hs))

theorem rewindStep_proceeds (hp : s.phase = .rewind) (hs : rewindStep s = .next t) : Proceeds s t := by
  refine proceeds_of_inReset hs fun a u hu ht => ?_
  rw [hp] at hu
  cases a with
  | fault c => exact continues_of_raise hu ht trivial
  | ok => exact continues_of_wentOn hu ht rfl rfl

theorem encodeRead_proceeds (hp : s.phase = .encode) (hs : encodeRead s = .next t) : Proceeds s t := by
  refine proceeds_of_inRead hs fun a u hu hv ht => ?_
  rw [hp] at hu
  cases a with
  | fault c => exact continues_of_raise hu ht trivial
  | eoi => exact continues_of_inPhase hu ht rfl rfl
  | val v =>
    simp only at ht
    split at ht
    · have hlt : v % 2 ^ 32 < 256 := lt_of_le_of_lt (Nat.mod_le _ _) (hv v rfl)
      exact continues_of_raise hu ht (by simpa [ErrCode.raisedWith] using hlt)
    · exact continues_of_inPhase hu ht rfl rfl

theorem encodeWrite_proceeds {k : Fin 257} (hp : s.phase = .encode) (hs : encodeWrite k s = .next t) :
    Proceeds s t := by
  refine proceeds_of_outWrite hs fun a u hu ht => ?_
  rw [hp] at hu
  cases a with
  | fault c => exact continues_of_raise hu ht trivial
  | ok =>
    simp only at ht
    split at ht
    · exact continues_of_wentOn hu ht rfl rfl
    · exact continues_of_inPhase hu ht rfl rfl

theorem encodeStep_proceeds (hp : s.phase = .encode) (hs : encodeStep s = .next t) : Proceeds s t := by
  unfold encodeStep at hs
  split at hs
  · exact encodeWrite_proceeds hp hs
  all_goals exact encodeRead_proceeds hp hs

theorem readMagicStep_proceeds (hp : s.phase = .rmagic) (hs : readMagicStep s = .next t) : Proceeds s t := by
  refine proceeds_of_inRead hs fun a u hu _ ht => ?_
  rw [hp] at hu
  cases a with
  | fault c => exact continues_of_raise hu ht trivial
  | eoi => exact continues_of_raise hu ht trivial
  | val v =>
    simp only at ht
    split at ht
    · obtain rfl := Host.Outcome.next.inj ht
      exact .magicRead hu
    · exact continues_of_raise hu ht trivial

theorem readNodeToken_continues (hp : u.phase = .rheader) (h : readNodeToken u = .next t) : Continues u t := by
  unfold readNodeToken at h
  split at h
  · exact continues_of_raise hp h rfl
  · next ha =>
    obtain ⟨hn, he⟩ := alloc_eq_some ha
    cases he
    obtain rfl := Host.Outcome.next.inj h
    exact .nodeRead hp hn

theorem readLeafToken_continues {sym : Symbol} (hp : u.phase = .rheader) (h : readLeafToken sym u = .next t) :
    Continues u t := by
  unfold readLeafToken at h
  split at h
  · exact continues_of_raise hp h rfl
  · next ha =>
    obtain ⟨hn, he⟩ := alloc_eq_some ha
    cases he
    obtain rfl := Host.Outcome.next.inj h
    exact .leafRead hp hn

/-- The decoder reads no command off a header (R110, R117, R118). -/
theorem decode_hdr_cases {bits rest : List Bool} {i : Instr} (h : decode .hdr bits = .ok (i, rest)) :
    i = .node ∨ ∃ sym, i = .leaf sym := by
  rcases bits with _ | ⟨_ | _, bits⟩
  · cases h
  · cases h; exact .inl rfl
  · simp only [decode, decodeToken] at h
    split at h
    · cases h
    · cases h; exact .inr ⟨_, rfl⟩

theorem runToken_continues {bits : List Bool} (hp : u.phase = .rheader) (h : runToken bits u = .next t) :
    Continues u t := by
  unfold runToken at h
  split at h
  · next i rest hd =>
    obtain rfl | ⟨sym, rfl⟩ := decode_hdr_cases hd
    · exact readNodeToken_continues hp ((execNode_of_rheader hp).symm.trans h)
    · exact readLeafToken_continues hp ((execLeaf_of_rheader hp).symm.trans h)
  · obtain rfl := Host.Outcome.next.inj h
    exact .flagRead hp

theorem readFlag_proceeds (hp : s.phase = .rheader) (hs : readFlag s = .next t) : Proceeds s t := by
  refine proceeds_of_inRead hs fun a u hu _ ht => ?_
  rw [hp] at hu
  cases a with
  | fault c => exact continues_of_raise hu ht trivial
  | eoi => exact continues_of_raise hu ht rfl
  | val v => exact runToken_continues hu ht

theorem readSymbol_proceeds (hp : s.phase = .rheader) (hs : readSymbol s = .next t) : Proceeds s t := by
  refine proceeds_of_inRead hs fun a u hu _ ht => ?_
  rw [hp] at hu
  cases a with
  | fault c => exact continues_of_raise hu ht trivial
  | eoi => exact continues_of_raise hu ht rfl
  | val v => exact runToken_continues hu ht

theorem readHeaderStep_proceeds (hp : s.phase = .rheader) (hs : readHeaderStep s = .next t) : Proceeds s t := by
  unfold readHeaderStep at hs
  split at hs
  · exact readSymbol_proceeds hp hs
  all_goals exact readFlag_proceeds hp hs

theorem reach_continues (i : NodeIdx) (hp : u.phase = .decode) : Continues u (reach i u) := by
  unfold reach
  split
  · split
    · exact continues_of_wentOn hp rfl rfl rfl
    split
    · next hlt =>
      have h512 := (u.nodeAt i).sym.isLt
      refine continues_of_raise hp rfl ?_
      simp only [ErrCode.raisedWith, BitVec.toNat_setWidth]
      omega
    · exact continues_of_inPhase hp rfl rfl rfl
  · exact continues_of_inPhase hp rfl rfl rfl

theorem decodeRead_proceeds (hp : s.phase = .decode) (hs : decodeRead s = .next t) : Proceeds s t := by
  refine proceeds_of_inRead hs fun a u hu _ ht => ?_
  rw [hp] at hu
  cases a with
  | fault c => exact continues_of_raise hu ht trivial
  | eoi => exact continues_of_raise hu ht rfl
  | val v =>
    obtain rfl := Host.Outcome.next.inj ht
    exact reach_continues _ hu

theorem decodeWrite_proceeds {b : Byte} (hp : s.phase = .decode) (hs : decodeWrite b s = .next t) : Proceeds s t := by
  refine proceeds_of_outWrite hs fun a u hu ht => ?_
  rw [hp] at hu
  cases a with
  | fault c => exact continues_of_raise hu ht trivial
  | ok => exact continues_of_inPhase hu ht rfl rfl

theorem decodeStep_proceeds (hp : s.phase = .decode) (hs : decodeStep s = .next t) : Proceeds s t := by
  unfold decodeStep at hs
  split at hs
  · exact decodeWrite_proceeds hp hs
  all_goals exact decodeRead_proceeds hp hs

/-! ### The moves of a step -/

/-- What a step of the core can do (R12, R158). -/
inductive CoreMove (s : State) : State → Prop where
  /-- An idle core lets its turn pass (log 7). -/
  | waits (hp : s.phase = .idle) : CoreMove s s.turn
  /-- A state that rests in BUILD goes on with the rest of it (log 11). -/
  | merges {v t : State} (hp : s.phase = .build) (hm : mergeAll s.q.length s.turn = .next v)
    (hg : gencodes v = .next t) : CoreMove s t
  /-- A state that rests in GENCODES goes on with it (log 11). -/
  | codes {t : State} (hp : s.phase = .gencodes) (hg : gencodes s.turn = .next t) : CoreMove s t
  /-- Header writing with no node pending goes on to REWIND. -/
  | skips (hp : s.phase = .wheader) (hk : s.hstack = []) : CoreMove s (headerWritten [] s.turn)
  /-- OutClose ends the command (R157). -/
  | closes {a : AckAnswer} {u : State} (hp : s.phase = .close) (hx : outClose s = .next (a, u)) :
    CoreMove s (complete a u)
  /-- Every other step: one transaction, and what follows it. -/
  | proceeds {t : State} (h : Proceeds s t) : CoreMove s t

theorem coreStep_moves (hs : coreStep s = .next t) : CoreMove s t := by
  unfold coreStep at hs
  split at hs
  · next hp =>
    obtain rfl := Host.Outcome.next.inj hs
    exact .waits hp
  · next hp => exact .proceeds (countStep_proceeds hp hs)
  · next hp =>
    obtain ⟨v, hm, hg⟩ := andThen_eq_next hs
    exact .merges hp hm hg
  · next hp => exact .codes hp hs
  · next hp => exact .proceeds (writeMagicStep_proceeds hp hs)
  · next hp =>
    obtain ⟨hk, rfl⟩ | h := writeHeaderStep_proceeds hp hs
    · exact .skips hp hk
    · exact .proceeds h
  · next hp => exact .proceeds (rewindStep_proceeds hp hs)
  · next hp => exact .proceeds (encodeStep_proceeds hp hs)
  · next hp => exact .proceeds (readMagicStep_proceeds hp hs)
  · next hp => exact .proceeds (readHeaderStep_proceeds hp hs)
  · next hp => exact .proceeds (decodeStep_proceeds hp hs)
  · next hp =>
    obtain ⟨⟨a, u⟩, hx, ht⟩ := andThen_eq_next hs
    obtain rfl := Host.Outcome.next.inj ht
    exact .closes hp hx

/-- What a turn of the host or the platform can do (R32 to R38, R350, R354 to R357, R360). -/
inductive HostMove (s : State) : State → Prop where
  /-- A register read. -/
  | reads {v : Word} : HostMove s { s with hostData := v }
  /-- A write of a read-only register, or of CMD while busy (R151). -/
  | ignored : HostMove s s
  /-- COMPRESS is accepted (R152). -/
  | compresses (hb : s.status.busy = false) (ho : s.out.oc = false) : HostMove s (startCount (accept .compress s))
  /-- DECOMPRESS is accepted (R154). -/
  | decompresses (hb : s.status.busy = false) (ho : s.out.oc = false) :
    HostMove s (startReadMagic (accept .decompress s))
  /-- Any other command word completes at once (R156). -/
  | illegal (hb : s.status.busy = false) : HostMove s { s with
      status := (Status.accepted.withError .illegalCommand).completed
      errinfo := 0#32, op := .noOp, phase := .idle, pending := .top, trace := [] }
  /-- The reset event (R350). -/
  | resets {inp : InPort} {out : OutPort} : HostMove s (coreReset inp out s)
  /-- A use of an idle core's ports (R354 to R356, R360). -/
  | ports {p : InPort} {o : OutPort} {al : Bool} {v : Word} {k : Nat} (hb : s.status.busy = false)
    (hc : s.inp.ic ≤ s.inp.size → p.ic ≤ p.size) :
    HostMove s { s with inp := p, out := o, aliased := al, hostData := v, freeIdx := k }
  /-- The source changes (R357). -/
  | sourceChanges {src : List Byte} : HostMove s { s with inp := InPort.clipped { s.inp with src := src } }

theorem regRead_moves {offset bytes : Nat} (h : regRead offset bytes s = .next t) : HostMove s t := by
  unfold regRead at h
  split_ifs at h <;> obtain rfl := Host.Outcome.next.inj h <;> exact .reads

theorem exec_decodeCommand_moves {w : Word} (h : exec (decodeCommand w) s = .next t) : HostMove s t := by
  unfold decodeCommand at h
  split_ifs at h
  · obtain ⟨-, rfl⟩ | ⟨hb, -, -, ho, rfl⟩ := launch_cases h
    · exact .ignored
    · exact .compresses hb ho
  · obtain ⟨-, rfl⟩ | ⟨hb, -, -, ho, rfl⟩ := launch_cases h
    · exact .ignored
    · exact .decompresses hb ho
  · simp only [exec, execIllegal] at h
    split at h <;> obtain rfl := Host.Outcome.next.inj h
    · exact .ignored
    · next hb => exact .illegal (by simpa using hb)

theorem regWrite_moves {offset bytes : Nat} {w : Word} (h : regWrite offset bytes w s = .next t) : HostMove s t := by
  unfold regWrite at h
  split_ifs at h
  · exact exec_decodeCommand_moves h
  · obtain rfl := Host.Outcome.next.inj h
    exact .ignored

theorem hostStep_moves {e : HostEvent} (h : hostStep e s = .next t) : HostMove s t := by
  cases e with
  | regRead offset bytes => exact regRead_moves h
  | regWrite offset bytes w => exact regWrite_moves h
  | reset inp out =>
    obtain rfl := Host.Outcome.next.inj h
    exact .resets
  | connect src cursor al =>
    obtain ⟨hb, ht⟩ := portUse_cases h
    obtain rfl := Host.Outcome.next.inj ht
    exact .ports hb fun _ => clipped_cursor_le _
  | openOutput =>
    obtain ⟨hb, ht⟩ := portUse_cases h
    obtain rfl := Host.Outcome.next.inj ht
    exact .ports hb id
  | closeOutput =>
    obtain ⟨hb, ht⟩ := portUse_cases h
    obtain rfl := Host.Outcome.next.inj ht
    exact .ports hb id
  | portRead n =>
    obtain ⟨hb, ht⟩ := portUse_cases h
    obtain ⟨-, ⟨-, rfl⟩ | ⟨hx, rfl⟩⟩ := hostRead_cases ht
    · exact .ports hb fun _ => afterEoi_cursor_le _ _
    · exact .ports hb fun _ => (not_exhausted_iff.mp hx).2
  | portRewind =>
    obtain ⟨hb, ht⟩ := portUse_cases h
    obtain rfl := Host.Outcome.next.inj ht
    exact .ports hb fun _ => Nat.zero_le _
  | portWrite n v =>
    obtain ⟨hb, ht⟩ := portUse_cases h
    obtain ⟨-, -, -, -, rfl⟩ := hostWrite_cases ht
    exact .ports hb id
  | sourceChange src =>
    obtain rfl := Host.Outcome.next.inj h
    exact .sourceChanges

/-! ### One transaction a step -/

theorem deliver_trace (i : NodeIdx) (fs : List Frame) (s : State) : (deliver i fs s).trace = s.trace := by
  induction fs generalizing i s with
  | nil => rfl
  | cons f fs ih =>
    unfold deliver
    split
    · exact ih ..
    · rfl

theorem Continues.trace (h : Continues u t) : t.trace = u.trace := by
  cases h with
  | built hp hb hg => rw [gencodes_frame hg, (build_frame hb).1]
  | leafRead hp hn => exact deliver_trace ..
  | _ => rfl

theorem Proceeds.trace (h : Proceeds s t) : ∃ x, t.trace = s.trace ++ [x] := by
  obtain ⟨u, x, hx, hc⟩ := h
  exact ⟨x, hc.trace.trans hx.trace⟩

theorem complete_trace (a : AckAnswer) (s : State) : (complete a s).trace = s.trace := by
  unfold complete
  split
  · split <;> rfl
  · rfl

/-- A step of the core appends one transaction, or none when it has none to issue (R12, R88). -/
theorem CoreMove.trace (h : CoreMove s t) :
    (∃ x, t.trace = s.trace ++ [x]) ∨
      (t.trace = s.trace ∧ s.readsNext = false ∧ s.writesNext = false ∧ s.phase ≠ .close) := by
  cases h with
  | waits hp => exact .inr (by simp [State.readsNext, State.writesNext, hp])
  | merges hp hm hg =>
    have ht : t.trace = s.trace := by rw [gencodes_frame hg, mergeAll_frame _ hm]; exact turn_trace s
    exact .inr (by simp [State.readsNext, State.writesNext, hp, ht])
  | codes hp hg =>
    have ht : t.trace = s.trace := by rw [gencodes_frame hg]; exact turn_trace s
    exact .inr (by simp [State.readsNext, State.writesNext, hp, ht])
  | skips hp hk => exact .inr (by simp [State.readsNext, State.writesNext, headerWritten, hp, hk])
  | closes hp hx => exact .inl ⟨_, (complete_trace _ _).trans (outClose_issues hx).trace⟩
  | proceeds h => exact .inl h.trace

theorem HostMove.trace (h : HostMove s t) : t.trace = s.trace ∨ t.trace = [] := by
  cases h with
  | compresses | decompresses | illegal | resets => exact .inr rfl
  | _ => exact .inl rfl

/-- Settles O54: the moves of a step, and the frames of BUILD and GENCODES. -/
theorem aStepIssuesAtMostOneTransaction : Obligations.AStepIssuesAtMostOneTransaction := by
  unfold Obligations.AStepIssuesAtMostOneTransaction
  refine ⟨fun s t hs => ?_, fun s t h => ?_⟩
  · obtain hc | ⟨e, rest, he⟩ := turn_cases s
    · rw [step_of_coreTurn hc] at hs
      obtain hx | ⟨ht, hr, hw, hp⟩ := (coreStep_moves hs).trace
      · exact ⟨fun _ => .inr hx, fun _ _ => hx, by simp [hc]⟩
      · exact ⟨fun _ => .inl ht, by simp [hr, hw, hp], by simp [hc]⟩
    · rw [step_of_hostTurn he] at hs
      have hc : s.coreTurn = false := by unfold State.coreTurn; rw [he]
      exact ⟨by simp [hc], by simp [hc], fun _ => (hostStep_moves hs).trace⟩
  · obtain hb | hg := h
    · rw [(build_frame hb).1]; exact ⟨rfl, rfl, rfl⟩
    · rw [gencodes_frame hg]; exact ⟨rfl, rfl, rfl⟩

/-! ### The invariant -/

theorem Inv.busy (h : Inv s) (hp : s.phase ≠ .idle) : s.status.busy = true := by
  simpa using mt h.idle_iff.mpr hp

/-- A command that has not come to CLOSE has no error (R320). -/
theorem Inv.no_error (h : Inv s) (hp : s.phase ≠ .idle) (hc : s.phase ≠ .close) : s.status.errcode = .noError := by
  by_contra he
  exact hc (h.error_closes (h.busy hp) he)

/-- The invariant after a transaction: it speaks of the ports only where the cursor and the output are concerned. -/
theorem Inv.issues {x : Transaction} (h : Inv s) (hx : Issues s u x) (ho : s.status.busy = true → u.out.oc = false) :
    Inv u := by
  rw [hx.frame]
  exact { h with output_open := ho, cursor_le := hx.cursor h.cursor_le }

theorem Inv.transacts {x : Transaction} (h : Inv s) (hx : Transacts s u x) : Inv u :=
  h.issues hx.toIssues fun hb => hx.output ▸ h.output_open hb

theorem Inv.turn (h : Inv s) : Inv s.turn := by
  rw [turn_frame]
  exact { h with }

theorem servesOp_close {p : Phase} {o : Op} (hp : p ≠ .idle) (h : p.servesOp o = true) :
    Phase.close.servesOp o = true := by
  cases o with
  | noOp => cases p <;> simp_all [Phase.servesOp]
  | compress | decompress => rfl

/-- Error entry keeps the invariant (R320, R36). -/
theorem Inv.raise {e : ErrCode} {info : Word} (h : Inv s) (hp : s.phase ≠ .idle) (he : e.raisedWith info) :
    Inv (raise e info s) := by
  have herr : e ≠ .noError := by rintro rfl; exact he
  exact { h with
    idle_iff := by simp [Status.withError, h.busy hp]
    err_iff := by simpa [Status.withError] using herr
    error_closes := fun _ _ => rfl
    no_info := by cases e <;> simp_all [Status.withError, ErrCode.raisedWith, ErrCode.hasNoInfo]
    bad_symbol_info := by rintro rfl; exact he
    no_code_info := by rintro rfl; exact he
    op_of_phase := servesOp_close hp h.op_of_phase
    pending_fits := rfl
    no_rest := by simp
    count_sum := by simp
    total_le := by simp
    stack_descends := by simp
    stack_allocated := by simp }

/-- The invariant says nothing of ROOT, CODE and the node store's entries. -/
theorem Inv.withTree (h : Inv s) {r : NodeIdx} {v : Vector NodeEntry 513} {c : Vector CodeEntry 257} :
    Inv { s with root := r, node := v, code := c } :=
  { h with }

theorem servesOp_wmagic (o : Op) : Phase.wmagic.servesOp o = Phase.count.servesOp o := by
  cases o <;> rfl

theorem servesOp_rheader (o : Op) : Phase.rheader.servesOp o = Phase.rmagic.servesOp o := by
  cases o <;> rfl

theorem servesOp_decode (o : Op) : Phase.decode.servesOp o = Phase.rheader.servesOp o := by
  cases o <;> rfl

/-- A running command enters a phase other than COUNT and RHEADER, whose memories have clauses of their own. -/
theorem Inv.enter {p : Phase} {d : Pending} {k : List Frame} {c : NodeIdx} {n : Nat} (h : Inv s)
    (hs : s.phase ≠ .idle ∧ s.phase ≠ .close) (hp : p ∉ [Phase.idle, .count, .build, .gencodes, .rheader])
    (hop : p.servesOp s.op = true) (hd : d.fits p = true) (hn : n ≤ 513) :
    Inv { s with phase := p, pending := d, hstack := k, cur := c, nnodes := n } := by
  simp only [List.mem_cons, List.not_mem_nil, or_false, not_or] at hp
  obtain ⟨hidle, hcount, hbuild, hgen, hread⟩ := hp
  exact { h with
    idle_iff := by simp [hidle, h.busy hs.1]
    error_closes := fun _ he => absurd (h.no_error hs.1 hs.2) he
    op_of_phase := hop
    pending_fits := hd
    no_rest := ⟨hbuild, hgen⟩
    nnodes_le := hn
    count_sum := fun hp => absurd hp hcount
    total_le := fun hp => absurd hp hcount
    stack_descends := fun hp => absurd hp hread
    stack_allocated := fun hp => absurd hp hread }

/-- A running DECOMPRESS reads the header, with pending nodes that are allocated, the newest on top (R49, R254). -/
theorem Inv.readHeader {p : Phase} {d : Pending} {k : List Frame} {n : Nat} {v : Vector NodeEntry 513} (h : Inv s)
    (hs : s.phase ≠ .idle ∧ s.phase ≠ .close) (hp : p = .rheader)
    (hop : Phase.rheader.servesOp s.op = true) (hd : d.fits .rheader = true) (hn : n ≤ 513)
    (hdesc : k.Pairwise (fun f g => g.node.val < f.node.val)) (hall : ∀ f ∈ k, f.node.val < n) :
    Inv { s with phase := p, pending := d, hstack := k, nnodes := n, node := v } := by
  subst hp
  exact { h with
    idle_iff := by simp [h.busy hs.1]
    error_closes := fun _ he => absurd (h.no_error hs.1 hs.2) he
    op_of_phase := hop
    pending_fits := hd
    no_rest := by simp
    nnodes_le := hn
    count_sum := by simp
    total_le := by simp
    stack_descends := fun _ => hdesc
    stack_allocated := fun _ => hall }

theorem Inv.countByte {b : Byte} (h : Inv s) (hp : s.phase = .count) (ht : s.total ≠ 2 ^ s.wb - 2) :
    Inv (countByte b s) where
  __ := h
  count_sum _ := by
    have hsum := sum_set_succ s.freq.toList b.toNat (by simpa using b.isLt)
    rw [countByte_freq, countByte_total, Vector.toList_set, ← h.count_sum hp]
    simpa using hsum
  total_le _ := Nat.lt_of_le_of_ne (h.total_le hp) ht
  stack_descends := h.stack_descends
  stack_allocated := h.stack_allocated

/-- COUNT's end, BUILD and GENCODES keep the invariant (R12). -/
theorem Inv.built {v : State} (h : Inv s) (hp : s.phase = .count) (hb : build s = .next v) (hg : gencodes v = .next t) :
    Inv t := by
  obtain ⟨hv, hn⟩ := build_frame hb
  rw [gencodes_frame hg, hv, ← h.queue_empty]
  exact (h.withTree (v := v.node) (r := v.root) (c := t.code)).enter (by simp [hp]) (by decide)
    (by rw [servesOp_wmagic, ← hp]; exact h.op_of_phase) rfl hn

/-- A subtree that is read goes to the node that waits for it, and the invariant stays (R254). -/
theorem Inv.deliver {i : NodeIdx} {fs : List Frame} (h : Inv s) (hp : s.phase = .rheader)
    (hdesc : fs.Pairwise (fun f g => g.node.val < f.node.val)) (hall : ∀ f ∈ fs, f.node.val < s.nnodes) :
    Inv (deliver i fs s) := by
  have hop : Phase.rheader.servesOp s.op = true := hp ▸ h.op_of_phase
  induction fs generalizing i s with
  | nil =>
    exact (h.withTree (r := i) (v := s.node) (c := s.code)).enter (by simp [hp]) (by decide)
      (by rw [servesOp_decode]; exact hop) rfl h.nnodes_le
  | cons f fs ih =>
    unfold Machine.deliver
    split
    · exact ih h.withTree hp hdesc.of_cons (fun g hg => hall g (List.mem_cons_of_mem _ hg)) hop
    · refine h.readHeader (by simp [hp]) hp hop rfl h.nnodes_le ?_ ?_
      · simpa using hdesc
      · simpa using hall

theorem goesOn_spec {q p : Phase} (h : q.goesOn p = true) :
    (q ≠ .idle ∧ q ≠ .close) ∧ p ∉ [Phase.idle, .count, .build, .gencodes, .rheader] ∧
      ∀ o, q.servesOp o = true → p.servesOp o = true := by
  unfold Phase.goesOn at h
  split at h
  case h_9 => exact absurd h (by decide)
  all_goals exact ⟨by decide, by decide, fun o => by cases o <;> decide⟩

/-- What follows a transaction keeps the invariant. -/
theorem Continues.inv (hc : Continues u t) (h : Inv u) : Inv t := by
  cases hc with
  | raised hp he => exact h.raise hp.1 he
  | counted hp ht => exact h.countByte hp ht
  | built hp hb hg => exact h.built hp hb hg
  | wentOn hp hd =>
    obtain ⟨hs, hmem, hop⟩ := goesOn_spec hp
    exact h.enter hs hmem (hop _ h.op_of_phase) (hd h.pending_fits) h.nnodes_le
  | magicRead hp =>
    exact h.readHeader (by simp [hp]) rfl (by rw [servesOp_rheader, ← hp]; exact h.op_of_phase) rfl
      (Nat.zero_le _) .nil (by simp)
  | flagRead hp => exact { h with pending_fits := by rw [hp]; rfl }
  | nodeRead hp hn =>
    refine h.readHeader (by simp [hp]) hp (hp ▸ h.op_of_phase) rfl hn ?_ ?_
    · exact List.pairwise_cons.mpr ⟨h.stack_allocated hp, h.stack_descends hp⟩
    · simpa [pendingNode] using fun f hf => Nat.lt_succ_of_lt (h.stack_allocated hp f hf)
  | leafRead hp hn =>
    have hall : ∀ f ∈ u.hstack, f.node.val < u.nnodes + 1 := fun f hf => Nat.lt_succ_of_lt (h.stack_allocated hp f hf)
    have hroom : Inv { u with nnodes := u.nnodes + 1 } :=
      { h with nnodes_le := hn, stack_allocated := fun _ => hall }
    exact Inv.deliver hroom.withTree hp (h.stack_descends hp) hall

/-- The end of a command keeps the invariant, whether or not its output is still open (R157). -/
theorem Inv.ended {o : OutPort} (h : Inv { s with out := o }) :
    Inv { s with status := s.status.completed, phase := .idle, op := .noOp, pending := .top } :=
  { h with
    idle_iff := by simp [Status.completed]
    not_busy_done := by simp [Status.completed]
    error_closes := by simp [Status.completed]
    op_of_phase := rfl
    pending_fits := rfl
    no_rest := by simp
    output_open := by simp [Status.completed]
    count_sum := by simp
    total_le := by simp
    stack_descends := by simp
    stack_allocated := by simp }

/-- COMPLETE keeps the invariant: a fault of OutClose is an error raised at the end (R157, R322). -/
theorem Inv.complete {a : AckAnswer} {o : OutPort} (h : Inv { s with out := o }) (hp : s.phase ≠ .idle) :
    Inv (complete a s) := by
  unfold Machine.complete
  split
  · split
    · exact Inv.ended (s := Machine.raise .portFaultOut _ s) (h.raise hp trivial)
    · exact h.ended
  · exact h.ended

/-- Acceptance of a command that runs keeps the invariant, when the command's first phase has its counts cleared
(R150, R180, R356). -/
theorem Inv.accepted {o : Op} {p : Phase} {f : Vector Nat 256} {n : Nat} (h : Inv s) (ho : s.out.oc = false)
    (hp : p ∉ [Phase.idle, .build, .gencodes, .rheader]) (hop : p.servesOp o = true)
    (hsum : p = .count → f.toList.sum = n) (hle : p = .count → n ≤ 2 ^ s.wb - 2) :
    Inv { accept o s with phase := p, pending := .top, freq := f, total := n } := by
  simp only [List.mem_cons, List.not_mem_nil, or_false, not_or] at hp
  obtain ⟨hidle, hbuild, hgen, hread⟩ := hp
  exact { h with
    idle_iff := by simp [hidle, Status.accepted]
    not_busy_done := by simp [Status.accepted]
    err_iff := by simp [Status.accepted]
    error_closes := by simp [Status.accepted]
    no_info := fun _ => rfl
    bad_symbol_info := by simp [Status.accepted]
    no_code_info := by simp [Status.accepted]
    op_of_phase := hop
    pending_fits := rfl
    no_rest := ⟨hbuild, hgen⟩
    output_open := fun _ => ho
    count_sum := hsum
    total_le := hle
    stack_descends := fun hp => absurd hp hread
    stack_allocated := fun hp => absurd hp hread }

/-- An illegal word keeps the invariant (R156). -/
theorem Inv.illegal (h : Inv s) : Inv { s with
    status := (Status.accepted.withError .illegalCommand).completed
    errinfo := 0#32, op := .noOp, phase := .idle, pending := .top, trace := [] } :=
  { h with
    idle_iff := by simp [Status.completed]
    not_busy_done := by simp [Status.completed]
    err_iff := by simp [Status.completed, Status.withError]
    error_closes := by simp [Status.completed]
    no_info := fun _ => rfl
    bad_symbol_info := by simp [Status.completed, Status.withError]
    no_code_info := by simp [Status.completed, Status.withError]
    op_of_phase := rfl
    pending_fits := rfl
    no_rest := by simp
    output_open := by simp [Status.completed]
    count_sum := by simp
    total_le := by simp
    stack_descends := by simp
    stack_allocated := by simp }

/-- The reset event gives a state that meets the invariant (R350). -/
theorem Inv.coreReset {inp : InPort} {out : OutPort} (h : Inv s) : Inv (coreReset inp out s) where
  wb_ge := h.wb_ge
  idle_iff := by simp [State.reset]
  not_busy_done := by simp [State.reset]
  err_iff := by simp [State.reset]
  error_closes := by simp [State.reset]
  no_info _ := rfl
  bad_symbol_info := by simp [State.reset]
  no_code_info := by simp [State.reset]
  op_of_phase := rfl
  pending_fits := rfl
  no_rest := by simp [State.reset]
  output_open := by simp [State.reset]
  cursor_le := by
    rw [coreReset_inp]
    split
    · exact clipped_cursor_le _
    · exact h.cursor_le
  nnodes_le := Nat.zero_le _
  queue_empty := rfl
  count_sum := nofun
  total_le := nofun
  stack_descends := nofun
  stack_allocated := nofun

theorem CoreMove.inv (hm : CoreMove s t) (h : Inv s) : Inv t := by
  cases hm with
  | waits hp => exact h.turn
  | merges hp hm hg => exact absurd hp h.no_rest.1
  | codes hp hg => exact absurd hp h.no_rest.2
  | skips hp hk => exact (Continues.wentOn (by rw [turn_phase, hp]; rfl) fun _ => rfl).inv h.turn
  | @closes a u hp hx =>
    have hi := outClose_issues hx
    have hopen : Inv { u with out := s.out } :=
      h.issues ⟨congrArg (fun v : State => { v with out := s.out }) hi.frame, hi.cursor⟩ h.output_open
    exact hopen.complete (by simp [hi.phase, hp])
  | proceeds hpr =>
    obtain ⟨u, x, hx, hc⟩ := hpr
    exact hc.inv (h.transacts hx)

theorem HostMove.inv (hm : HostMove s t) (h : Inv s) : Inv t := by
  cases hm with
  | reads => exact { h with }
  | ignored => exact h
  | compresses hb ho =>
    have hsum : (Vector.replicate 256 0).toList.sum = 0 := by
      rw [Vector.toList_replicate, List.sum_replicate, smul_zero]
    exact h.accepted ho (by decide) rfl (fun _ => hsum) fun _ => Nat.zero_le _
  | decompresses hb ho => exact h.accepted ho (by decide) rfl nofun nofun
  | illegal hb => exact h.illegal
  | resets => exact h.coreReset
  | ports hb hc => exact { h with output_open := by simp [hb], cursor_le := hc h.cursor_le }
  | sourceChanges => exact { h with cursor_le := clipped_cursor_le _ }

/-- Settles O56: every move of a step keeps the invariant. -/
theorem everyStepKeepsTheInvariant : Obligations.EveryStepKeepsTheInvariant := by
  unfold Obligations.EveryStepKeepsTheInvariant
  intro s t h hs
  obtain hc | ⟨e, rest, he⟩ := turn_cases s
  · exact (coreStep_moves ((step_of_coreTurn hc).symm.trans hs)).inv h
  · exact (hostStep_moves ((step_of_hostTurn he).symm.trans hs)).inv { h with }

end Sys2Proof.Machine

/-! ## State (10_state.md): what the steps keep and write of the registers, and the register window

The moves of a step say what becomes of MAGIC, WB and STATUS; the register window has an equation per access. -/
namespace Sys2Proof.Machine

variable {s t u : State}

/-! ### Frames -/

/-- The return of a subtree writes the node store, HSTACK and where the core stands, and nothing else (R254). -/
theorem deliver_frame (i : NodeIdx) (fs : List Frame) (s : State) :
    deliver i fs s = { s with
      node := (deliver i fs s).node, root := (deliver i fs s).root, cur := (deliver i fs s).cur
      hstack := (deliver i fs s).hstack, phase := (deliver i fs s).phase, pending := (deliver i fs s).pending } := by
  induction fs generalizing i s with
  | nil => rfl
  | cons f fs ih =>
    unfold deliver
    split
    · have hrest := ih f.node (s.setNode f.node { s.nodeAt f.node with r := i })
      exact hrest
    · rfl

/-- The end of a command writes STATUS, ERRINFO, OP and where the core stands, and nothing else (R157). -/
theorem complete_frame (a : AckAnswer) (s : State) :
    complete a s = { s with
      status := (complete a s).status, errinfo := (complete a s).errinfo
      op := .noOp, phase := .idle, pending := .top } := by
  unfold complete
  split
  · split <;> rfl
  · rfl

/-! ### MAGIC and WB -/

/-- MAGIC and WB are in `t` what they are in `s` (R37, R8). -/
def SameConstants (s t : State) : Prop :=
  t.magic = s.magic ∧ t.wb = s.wb

theorem SameConstants.trans (h : SameConstants s t) (h' : SameConstants t u) : SameConstants s u :=
  ⟨h'.1.trans h.1, h'.2.trans h.2⟩

theorem sameConstants_turn (s : State) : SameConstants s s.turn :=
  ⟨turn_magic s, turn_wb s⟩

theorem Issues.sameConstants {x : Transaction} (h : Issues s u x) : SameConstants s u := by
  rw [h.frame]; exact ⟨rfl, rfl⟩

theorem sameConstants_of_gencodes (h : gencodes s = .next t) : SameConstants s t := by
  rw [gencodes_frame h]; exact ⟨rfl, rfl⟩

theorem sameConstants_of_mergeAll {size : Nat} (h : mergeAll size s = .next t) : SameConstants s t := by
  rw [mergeAll_frame _ h]; exact ⟨rfl, rfl⟩

theorem sameConstants_of_build (h : build s = .next t) : SameConstants s t := by
  rw [(build_frame h).1]; exact ⟨rfl, rfl⟩

theorem Continues.sameConstants (h : Continues u t) : SameConstants u t := by
  cases h with
  | built hp hb hg => exact (sameConstants_of_build hb).trans (sameConstants_of_gencodes hg)
  | leafRead hp hn => rw [deliver_frame]; exact ⟨rfl, rfl⟩
  | _ => exact ⟨rfl, rfl⟩

theorem CoreMove.sameConstants (h : CoreMove s t) : SameConstants s t := by
  cases h with
  | waits hp => exact sameConstants_turn s
  | merges hp hm hg =>
    exact ((sameConstants_turn s).trans (sameConstants_of_mergeAll hm)).trans (sameConstants_of_gencodes hg)
  | codes hp hg => exact (sameConstants_turn s).trans (sameConstants_of_gencodes hg)
  | skips hp hk => exact sameConstants_turn s
  | closes hp hx =>
    refine (outClose_issues hx).sameConstants.trans ?_
    rw [complete_frame]; exact ⟨rfl, rfl⟩
  | proceeds h =>
    obtain ⟨u, x, hx, hc⟩ := h
    exact hx.sameConstants.trans hc.sameConstants

theorem HostMove.sameConstants (h : HostMove s t) : SameConstants s t := by
  cases h <;> exact ⟨rfl, rfl⟩

/-- Settles O51: every move of a step, the core's and the host's, keeps MAGIC and WB. -/
theorem noStepChangesTheBuildConstants : Obligations.NoStepChangesTheBuildConstants := by
  unfold Obligations.NoStepChangesTheBuildConstants
  intro s t hs
  obtain hc | ⟨e, rest, he⟩ := turn_cases s
  · exact (coreStep_moves ((step_of_coreTurn hc).symm.trans hs)).sameConstants
  · exact (hostStep_moves ((step_of_hostTurn he).symm.trans hs)).sameConstants

/-! ### STATUS -/

/-- A command completes with STATUS as it stood, or with the fault of its own OutClose when no error stood (R157,
R322). -/
theorem complete_status (a : AckAnswer) (s : State) :
    (complete a s).status = s.status.completed ∨
      (s.status.errcode = .noError ∧ (complete a s).status = (s.status.withError .portFaultOut).completed) := by
  cases a with
  | ok => exact .inl rfl
  | fault c =>
    unfold complete
    by_cases he : s.status.errcode = .noError
    · exact .inr ⟨he, by simp [he]⟩
    · exact .inl (by simp [he])

theorem Issues.status {x : Transaction} (h : Issues s u x) : u.status = s.status := by
  rw [h.frame]

/-- STATUS is written by error entry alone between a transaction other than OutClose and the next one (R35, R320). -/
theorem Continues.status (h : Continues u t) :
    t.status = u.status ∨
      ∃ e, u.phase ≠ .idle ∧ u.phase ≠ .close ∧ t.phase = .close ∧ t.status = u.status.withError e := by
  cases h with
  | raised hp he => exact .inr ⟨_, hp.1, hp.2, rfl, rfl⟩
  | built hp hb hg => rw [gencodes_frame hg, (build_frame hb).1]; exact .inl rfl
  | leafRead hp hn => rw [deliver_frame]; exact .inl rfl
  | _ => exact .inl rfl

/-- STATUS is written by error entry and completion alone on a turn of the core (R35). -/
theorem CoreMove.status (h : CoreMove s t) :
    t.status = s.status ∨
      (∃ e, s.phase ≠ .idle ∧ s.phase ≠ .close ∧ t.phase = .close ∧ t.status = s.status.withError e) ∨
      (s.phase = .close ∧ t.phase = .idle ∧ (t.status = s.status.completed ∨
        (s.status.errcode = .noError ∧ t.status = (s.status.withError .portFaultOut).completed))) := by
  cases h with
  | waits hp => exact .inl (turn_status s)
  | merges hp hm hg => rw [gencodes_frame hg, mergeAll_frame _ hm]; exact .inl (turn_status s)
  | codes hp hg => rw [gencodes_frame hg]; exact .inl (turn_status s)
  | skips hp hk => exact .inl (turn_status s)
  | @closes a u hp hx =>
    have hended : (complete a u).phase = .idle := by rw [complete_frame]
    rw [← (outClose_issues hx).status]
    exact .inr (.inr ⟨hp, hended, complete_status a u⟩)
  | proceeds h =>
    obtain ⟨u, x, hx, hc⟩ := h
    rw [← hx.status, ← hx.phase]
    exact hc.status.imp_right .inl

/-- STATUS is written by acceptance and by an illegal word's completion alone at a write of CMD, on an idle core
(R150, R151, R156). -/
theorem exec_decodeCommand_status {w : Word} (h : exec (decodeCommand w) s = .next t) :
    t.status = s.status ∨
      (s.status.busy = false ∧ t.status = Status.accepted ∧ (t.phase = .count ∨ t.phase = .rmagic)) ∨
      (s.status.busy = false ∧ t.status = (Status.accepted.withError .illegalCommand).completed) := by
  unfold decodeCommand at h
  split_ifs at h
  · obtain ⟨-, rfl⟩ | ⟨hb, -, -, -, rfl⟩ := launch_cases h
    · exact .inl rfl
    · exact .inr (.inl ⟨hb, rfl, .inl rfl⟩)
  · obtain ⟨-, rfl⟩ | ⟨hb, -, -, -, rfl⟩ := launch_cases h
    · exact .inl rfl
    · exact .inr (.inl ⟨hb, rfl, .inr rfl⟩)
  · simp only [exec, execIllegal] at h
    split at h <;> obtain rfl := Host.Outcome.next.inj h
    · exact .inl rfl
    · next hb => exact .inr (.inr ⟨by simpa using hb, rfl⟩)

/-- STATUS is kept by a turn of the host other than a reset or a write of the register window (R35). -/
theorem hostStep_status_kept {e : HostEvent} (h : hostStep e s = .next t)
    (hw : ∀ offset bytes w, e ≠ .regWrite offset bytes w) (hr : ∀ inp out, e ≠ .reset inp out) :
    t.status = s.status := by
  cases e with
  | regWrite offset bytes w => exact absurd rfl (hw offset bytes w)
  | reset inp out => exact absurd rfl (hr inp out)
  | regRead offset bytes =>
    simp only [hostStep, regRead] at h
    split_ifs at h <;> obtain rfl := Host.Outcome.next.inj h <;> rfl
  | portRead n =>
    obtain ⟨-, ⟨-, rfl⟩ | ⟨-, rfl⟩⟩ := hostRead_cases (portUse_cases h).2 <;> rfl
  | portWrite n v =>
    obtain ⟨-, -, -, -, rfl⟩ := hostWrite_cases (portUse_cases h).2
    rfl
  | connect | openOutput | closeOutput | portRewind =>
    obtain rfl := Host.Outcome.next.inj (portUse_cases h).2
    rfl
  | sourceChange src =>
    obtain rfl := Host.Outcome.next.inj h
    rfl

/-- STATUS is written by reset and by a write of CMD to an idle core alone on a turn of the host (R35, R54). -/
theorem hostStep_status {e : HostEvent} (h : hostStep e s = .next t) :
    t.status = s.status ∨
      (s.status.busy = false ∧ t.status = Status.accepted ∧ (t.phase = .count ∨ t.phase = .rmagic)) ∨
      (s.status.busy = false ∧ t.status = (Status.accepted.withError .illegalCommand).completed) ∨
      (∃ inp out, e = .reset inp out) ∧ t.status = State.reset.status := by
  cases e with
  | reset inp out =>
    obtain rfl := Host.Outcome.next.inj h
    exact .inr (.inr (.inr ⟨⟨inp, out, rfl⟩, rfl⟩))
  | regWrite offset bytes w =>
    simp only [hostStep, regWrite] at h
    split_ifs at h
    · exact (exec_decodeCommand_status h).imp_right (Or.imp_right .inl)
    · obtain rfl := Host.Outcome.next.inj h
      exact .inl rfl
  | _ => exact .inl (hostStep_status_kept h nofun nofun)

/-- Settles O52: the writes of STATUS on a turn of the core and on one of the host; by the invariant no error stands
where an error is entered. -/
theorem onlyTheStatedEventsWriteStatus : Obligations.OnlyTheStatedEventsWriteStatus := by
  unfold Obligations.OnlyTheStatedEventsWriteStatus
  intro s t hinv hs
  obtain hc | ⟨e, rest, he⟩ := turn_cases s
  · obtain hkept | ⟨e, hidle, hclose, ht, hst⟩ | ⟨hp, ht, hst⟩ :=
      (coreStep_moves ((step_of_coreTurn hc).symm.trans hs)).status
    · exact .inl hkept
    · exact .inr (.inr (.inr (.inl ⟨e, hinv.no_error hidle hclose, hidle, hclose, ht, hst⟩)))
    · exact .inr (.inr (.inr (.inr (.inl ⟨hp, ht, hst⟩))))
  · obtain hkept | haccepted | hillegal | ⟨⟨inp, out, rfl⟩, hst⟩ :=
      hostStep_status ((step_of_hostTurn he).symm.trans hs)
    · exact .inl hkept
    · exact .inr (.inl haccepted)
    · exact .inr (.inr (.inl hillegal))
    · exact .inr (.inr (.inr (.inr (.inr ⟨⟨inp, out, rest, he⟩, by rw [hst]; decide⟩))))

/-! ### The STATUS word -/

theorem ErrCode.number_le (e : ErrCode) : e.number.toNat ≤ 10 := by
  cases e <;> decide

/-- Settles O5: each field is cut out of the concatenation that makes the word. -/
theorem statusWordHasTheStatedFields : Obligations.StatusWordHasTheStatedFields := by
  unfold Obligations.StatusWordHasTheStatedFields
  intro st
  refine ⟨?busy, ?done, ?err, ?low, ?errcode, ?high, ErrCode.number_le _⟩
  case busy | done | err =>
    simp only [Status.word, BitVec.getLsbD_append]
    simp
  case low | errcode | high =>
    simp (disch := decide) only [Status.word, BitVec.extractLsb'_append_eq_of_le,
      BitVec.extractLsb'_append_eq_of_add_le]
    exact BitVec.extractLsb'_eq_self

/-! ### Reset -/

/-- Settles O1: the stated values are those of the model's reset state. -/
theorem resetHoldsTheStatedValues : Obligations.ResetHoldsTheStatedValues := by
  unfold Obligations.ResetHoldsTheStatedValues
  exact ⟨by decide, rfl, rfl, rfl, rfl, rfl, fun _ => rfl⟩

/-- Settles O55: the clauses about COUNT and RHEADER do not speak of an idle core, and the others are closed facts about
the reset values. -/
theorem resetMeetsTheInvariant : Obligations.ResetMeetsTheInvariant := by
  unfold Obligations.ResetMeetsTheInvariant
  constructor
  case count_sum | total_le | stack_descends | stack_allocated => exact nofun
  all_goals decide

/-! ### The register window -/

@[simp] theorem regRead_cmd (s : State) : regRead 0x0 4 s = .next { s with hostData := 0#32 } := rfl

@[simp] theorem regRead_status (s : State) : regRead 0x4 4 s = .next { s with hostData := s.status.word } := rfl

@[simp] theorem regRead_errinfo (s : State) : regRead 0x8 4 s = .next { s with hostData := s.errinfo } := rfl

@[simp] theorem regRead_magic (s : State) : regRead 0xC 4 s = .next { s with hostData := s.magic } := rfl

@[simp] theorem regWrite_cmd (w : Word) (s : State) : regWrite 0x0 4 w s = exec (decodeCommand w) s := rfl

@[simp] theorem regWrite_status (w : Word) (s : State) : regWrite 0x4 4 w s = .next s := rfl

@[simp] theorem regWrite_errinfo (w : Word) (s : State) : regWrite 0x8 4 w s = .next s := rfl

@[simp] theorem regWrite_magic (w : Word) (s : State) : regWrite 0xC 4 w s = .next s := rfl

/-- An aligned 4-byte access to one of the four registers of the window (R32, R38). -/
def IsRegister (offset bytes : Nat) : Prop :=
  bytes = 4 ∧ (offset = 0x0 ∨ offset = 0x4 ∨ offset = 0x8 ∨ offset = 0xC)

theorem regRead_of_isRegister {offset bytes : Nat} (h : IsRegister offset bytes) (s : State) :
    ∃ v, regRead offset bytes s = .next { s with hostData := v } := by
  obtain ⟨rfl, rfl | rfl | rfl | rfl⟩ := h
  · exact ⟨_, regRead_cmd s⟩
  · exact ⟨_, regRead_status s⟩
  · exact ⟨_, regRead_errinfo s⟩
  · exact ⟨_, regRead_magic s⟩

theorem regRead_refused {offset bytes : Nat} (h : ¬ IsRegister offset bytes) (s : State) :
    regRead offset bytes s = .refused .badRegisterAccess := by
  unfold IsRegister at h
  unfold regRead
  rw [if_neg (by omega), if_neg (by omega), if_neg (by omega), if_neg (by omega)]

theorem regWrite_refused {offset bytes : Nat} (h : ¬ IsRegister offset bytes) (w : Word) (s : State) :
    regWrite offset bytes w s = .refused .badRegisterAccess := by
  unfold IsRegister at h
  unfold regWrite
  rw [if_neg (by omega), if_neg (by omega)]

/-- Settles O3: the equation of each access. -/
theorem registerWindowReadsAndIgnoredWrites : Obligations.RegisterWindowReadsAndIgnoredWrites := by
  unfold Obligations.RegisterWindowReadsAndIgnoredWrites
  intro s w rest
  refine ⟨?_, ?_, ?_, ?_, ?_, ?_, ?_⟩ <;> intro h <;> rw [step_of_hostTurn h]
  · exact regRead_cmd _
  · exact regRead_status _
  · exact regRead_errinfo _
  · exact regRead_magic _
  · exact regWrite_status w _
  · exact regWrite_errinfo w _
  · exact regWrite_magic w _

/-- Settles O4: an access to one of the four registers, and any other. -/
theorem otherRegisterAccessesAreRefused : Obligations.OtherRegisterAccessesAreRefused := by
  unfold Obligations.OtherRegisterAccessesAreRefused
  intro s offset bytes w rest
  refine ⟨fun hreg h => ?_, fun hreg => ⟨fun h => ?_, fun h => ?_⟩⟩ <;> rw [step_of_hostTurn h]
  · exact regRead_of_isRegister hreg _
  · exact regRead_refused hreg _
  · exact regWrite_refused hreg w _

/-! ### The decoded instruction -/

/-- The bits of a command word decode to the instruction the word selects (R111). -/
theorem decode_cmd32_bin (w : Word) : decode .cmd32 (bin 32 w.toNat) = .ok (decodeCommand w, []) := by
  simp [decode, val_bin_of_lt w.isLt, List.take_of_length_le, List.drop_of_length_le]

/-- The value InRead returns has the bits that stand at the cursor (R72, R80). -/
theorem bin_field {p : InPort} {n : Nat} (hx : p.exhausted n = false) : bin n (p.field n) = p.ahead.take n := by
  have hlen : (p.ahead.take n).length = n := by
    have := (not_exhausted_iff.mp hx).2
    rw [List.length_take, ahead_length]
    omega
  exact bin_val_of_length hlen

theorem runToken_of_decode {bits rest : List Bool} {i : Instr} (h : decode .hdr bits = .ok (i, rest)) (s : State) :
    runToken bits s = exec i s := by
  simp [runToken, h]

theorem coreStep_of_rheader (h : s.phase = .rheader) : coreStep s = readHeaderStep s := by
  simp [coreStep, h]

theorem coreStep_of_wheader (h : s.phase = .wheader) : coreStep s = writeHeaderStep s := by
  simp [coreStep, h]

theorem readHeaderStep_of_top (h : s.pending = .top) : readHeaderStep s = readFlag s := by
  simp [readHeaderStep, h]

theorem readHeaderStep_of_symField (h : s.pending = .symField) : readHeaderStep s = readSymbol s := by
  simp [readHeaderStep, h]

theorem readFlag_value (hd : s.draw = .serve) (hx : s.inp.exhausted 1 = false) :
    readFlag s = runToken (s.inp.ahead.take 1) (s.afterRead 1) := by
  simp [readFlag, inRead_value hd hx, bin_field hx]

theorem readSymbol_value (hd : s.draw = .serve) (hx : s.inp.exhausted 9 = false) :
    readSymbol s = runToken (true :: s.inp.ahead.take 9) (s.afterRead 9) := by
  simp [readSymbol, inRead_value hd hx, bin_field hx]

theorem writeHeaderStep_of_cons {f : Frame} {rest : List Frame} (h : s.hstack = f :: rest) :
    writeHeaderStep s = exec (s.nodeAt f.node).token s := by
  simp [writeHeaderStep, h]

/-- Settles O14: the command word of a write to CMD, the two reads of a header token, and the token that is written. -/
theorem stepRunsTheDecodedInstruction : Obligations.StepRunsTheDecodedInstruction := by
  unfold Obligations.StepRunsTheDecodedInstruction
  refine ⟨fun s w i rest ht hdec => ?_, fun s i hsv hp hpe hx hdec => ?_, fun s i hsv hp hpe hx hdec => ?_,
    fun s f rest hc hp hk => ?_⟩
  · obtain ⟨rfl, -⟩ := Prod.mk.inj (Except.ok.inj ((decode_cmd32_bin w).symm.trans hdec))
    rw [step_of_hostTurn ht]
    exact regWrite_cmd w _
  · obtain ⟨hc, hd⟩ := served_iff.mp hsv
    rw [step_of_coreTurn hc, coreStep_of_rheader hp, readHeaderStep_of_top hpe, readFlag_value hd hx,
      runToken_of_decode hdec]
  · obtain ⟨hc, hd⟩ := served_iff.mp hsv
    rw [step_of_coreTurn hc, coreStep_of_rheader hp, readHeaderStep_of_symField hpe, readSymbol_value hd hx,
      runToken_of_decode hdec]
  · rw [step_of_coreTurn hc, coreStep_of_wheader hp, writeHeaderStep_of_cons hk]

end Sys2Proof.Machine

/-! ## The ports (20_memory.md): the bits of the two streams, and what each transaction returns and leaves unchanged -/
namespace Sys2Proof.Machine

variable {s t : State}

/-! ### Bit order -/

/-- Bit `8k + j` of a byte sequence's bits is bit `7 - j` of byte `k`, and there is none past the last byte (R80). -/
theorem bitsOf_getElem? (src : List Byte) (k : Nat) {j : Nat} (hj : j ≤ 7) :
    (bitsOf src)[8 * k + j]? = src[k]?.map (·.getLsbD (7 - j)) := by
  induction src generalizing k with
  | nil => simp [bitsOf]
  | cons b src ih =>
    cases k with
    | zero =>
      rw [bitsOf, List.getElem?_append_left (by simp; omega), bin_getElem? _ _ _ (by omega)]
      simp [BitVec.testBit_toNat]
    | succ k =>
      rw [bitsOf, List.getElem?_append_right (by simp; omega), bin_length,
        show 8 * (k + 1) + j - 8 = 8 * k + j by omega, ih k, List.getElem?_cons_succ]

theorem bytesOf_length {bits : List Bool} (h : 8 ∣ bits.length) : (bytesOf bits).length = bits.length / 8 := by
  obtain ⟨n, hn⟩ := h
  have hbits := congrArg List.length (bitsOf_bytesOf n bits hn)
  rw [bitsOf_length] at hbits
  omega

/-- Settles O20: the bits of bytes by induction over the bytes, and the bytes of bits through `bitsOf_bytesOf`. -/
theorem streamBitsRunFromTheMostSignificant : Obligations.StreamBitsRunFromTheMostSignificant := by
  unfold Obligations.StreamBitsRunFromTheMostSignificant
  refine ⟨fun src k j b hb hj => ⟨bitsOf_length src, ?_⟩, fun bits k j b hd hb hj => ⟨bytesOf_length hd, ?_⟩⟩
  · rw [bitsOf_getElem? src k hj, hb, Option.map_some]
  · obtain ⟨n, hn⟩ := hd
    rw [← bitsOf_bytesOf n bits hn, bitsOf_getElem? _ k hj, hb, Option.map_some]

/-! ### InRead and InReset -/

/-- The bits of the value InRead returns are the stream bits from the cursor on, most significant first (R72). -/
theorem field_testBit {p : InPort} {n j : Nat} (hx : p.exhausted n = false) (hj : j < n) :
    (bitsOf p.src)[p.ic + j]? = some ((p.field n).testBit (n - 1 - j)) := by
  rw [← bin_getElem? n _ j hj, bin_field hx, List.getElem?_take_of_lt hj, InPort.ahead, List.getElem?_drop]

/-- Settles O21: the value is the field at the cursor, whose bits `field_testBit` gives. -/
theorem inReadReturnsTheNextField : Obligations.InReadReturnsTheNextField := by
  unfold Obligations.InReadReturnsTheNextField
  intro s n _ hd he hn
  have hx : s.inp.exhausted n = false := not_exhausted_iff.mpr ⟨he, hn⟩
  exact ⟨s.inp.field n, inRead_value hd hx, field_lt, fun j hj => field_testBit hx hj, afterRead_inp s n⟩

/-- The frame of every transaction: outside the port it is answered by, only the turn and the record change (R12, R87). -/
theorem turn_record_frame (s : State) (x : Transaction) :
    s.turn.record x = { s with inputs := s.turn.inputs, trace := s.trace ++ [x] } := by
  rw [turn_frame]; rfl

theorem afterEoi_eoi (s : State) (n : Nat) : (s.afterEoi n).inp.eoi = true := by
  rw [afterEoi_inp]; rfl

theorem afterEoi_src (s : State) (n : Nat) : (s.afterEoi n).inp.src = s.inp.src := by
  rw [afterEoi_inp]; rfl

theorem afterEoi_ic_le_size (s : State) (n : Nat) : (s.afterEoi n).inp.ic ≤ (s.afterEoi n).inp.size := by
  rw [afterEoi_inp]; exact afterEoi_cursor_le _ _

/-- Settles O22: the end-of-input condition that the first EOI leaves answers every later read. -/
theorem inReadAtTheEndReturnsEoi : Obligations.InReadAtTheEndReturnsEoi := by
  unfold Obligations.InReadAtTheEndReturnsEoi
  intro s n hd hend
  refine ⟨s.afterEoi n, inRead_eoi hd (exhausted_iff.mpr hend.symm), afterEoi_eoi s n, afterEoi_src s n,
    afterEoi_ic_le_size s n, ?frame, fun m hm => ⟨_, inRead_eoi hm (exhausted_iff.mpr (.inl (afterEoi_eoi s n)))⟩⟩
  case frame => rw [State.afterEoi, turn_record_frame]

/-- Settles O23: the contract's answer (`inReset_ok`), with the frame of a transaction. -/
theorem inResetRewinds : Obligations.InResetRewinds := by
  unfold Obligations.InResetRewinds
  intro s hd
  refine ⟨_, inReset_ok hd, rfl, ?frame⟩
  case frame => rw [turn_record_frame]

/-! ### OutWrite and OutClose -/

theorem outWrite_eq_ok {n v : Nat} (h : outWrite n v s = .next (.ok, t)) : t = s.afterWrite n v := by
  obtain ⟨-, -, -, ⟨c, e, -, hr⟩ | ⟨-, hr⟩⟩ := outWrite_cases h
  · cases hr
  · exact (Prod.mk.inj hr).2

/-- Settles O24: the contract's answer (`outWrite_ok`) appends `bin n v`, whose bits and value are R14's. -/
theorem outWriteAppends : Obligations.OutWriteAppends := by
  unfold Obligations.OutWriteAppends
  intro s n v h1 h2 hv ho hd
  refine ⟨s.afterWrite n v, outWrite_ok h1 h2 ho hd, afterWrite_out s n v, bin_length n v, bin_getElem? n v,
    val_bin_of_lt hv, ?frame⟩
  case frame => rw [State.afterWrite, turn_record_frame]

theorem padding_dvd (bits : List Bool) : 8 ∣ bits.length + padding bits := by
  simpa [padded] using padded_length_dvd bits

/-- The padding is the least that makes whole bytes (R78). -/
theorem padding_le {bits : List Bool} {p : Nat} (h : 8 ∣ bits.length + p) : padding bits ≤ p := by
  unfold padding; omega

theorem closed_of_open {p : OutPort} (h : p.oc = false) :
    p.closed = { ob := padded p.ob, oc := true, sink := bytesOf (padded p.ob) } := by
  simp [OutPort.closed, h]

/-- Settles O25: the padding is the least there is (`padding_le`), and the delivered bytes hold the padded bits. -/
theorem outClosePadsAndDelivers : Obligations.OutClosePadsAndDelivers := by
  unfold Obligations.OutClosePadsAndDelivers
  intro s ho hd
  have hok := outClose_ok ho hd
  rw [closed_of_open ho] at hok
  refine ⟨_, padding s.out.ob, hok, padding_dvd _, fun _ => padding_le, rfl, rfl, bitsOf_bytesOf_padded _, ?frame⟩
  case frame => rw [turn_record_frame]

/-- Settles O26: both outputs are the old one with the joined field after it (`bin_append`). -/
theorem twoWritesAreTheJoinedWrite : Obligations.TwoWritesAreTheJoinedWrite := by
  unfold Obligations.TwoWritesAreTheJoinedWrite
  intro s t u v a b x y hx hy ht hu hv
  obtain rfl := outWrite_eq_ok ht
  obtain rfl := outWrite_eq_ok hu
  obtain rfl := outWrite_eq_ok hv
  simp only [afterWrite_out, List.append_assoc, bin_append a b x y hx hy]

end Sys2Proof.Machine

/-! ## The encoding (30_encoding.md): the decoder and the encoder invert each other -/
namespace Sys2Proof

/-! ### Command words -/

theorem decodeCommand_of_wf {w : Word} (h : (Instr.illegal w).wf = true) : decodeCommand w = .illegal w := by
  have hw : w ≠ 1#32 ∧ w ≠ 2#32 := by simpa [Instr.wf] using h
  simp [decodeCommand, hw]

/-- The instruction a word selects is well-formed, a command, and encoded as that word (R111 to R113). -/
theorem decodeCommand_spec (w : Word) :
    encode (decodeCommand w) = bin 32 w.toNat ∧ (decodeCommand w).wf = true ∧ (decodeCommand w).format = .cmd32 := by
  unfold decodeCommand
  split
  · next h => subst h; exact ⟨rfl, rfl, rfl⟩
  split
  · next h => subst h; exact ⟨rfl, rfl, rfl⟩
  · next h1 h2 => exact ⟨rfl, by simp [Instr.wf, h1, h2], rfl⟩

theorem decode_cmd32_append (w : Word) (rest : List Bool) :
    decode .cmd32 (bin 32 w.toNat ++ rest) = .ok (decodeCommand w, rest) := by
  have hlen : (bin 32 w.toNat).length = 32 := bin_length _ _
  simp [decode, List.take_left' hlen, List.drop_left' hlen, val_bin_of_lt w.isLt]

/-! ### Header tokens -/

theorem decode_leaf_append (sym : Symbol) (rest : List Bool) :
    decode .hdr (encode (.leaf sym) ++ rest) = .ok (.leaf sym, rest) := by
  have hlen : (bin 9 sym.toNat).length = 9 := bin_length _ _
  simp [decode, decodeToken, encode, List.take_left' hlen, List.drop_left' hlen, val_bin_of_lt sym.isLt]

/-- `n` bits are the encoding of the field they are the number of (R14). -/
theorem bin_ofNat_val {bits : List Bool} {n : Nat} (h : bits.length = n) :
    bin n (BitVec.ofNat n (val bits)).toNat = bits := by
  have hlt : val bits < 2 ^ n := h ▸ val_lt bits
  rw [BitVec.toNat_ofNat, Nat.mod_eq_of_lt hlt, bin_val_of_length h]

/-! ### The obligations -/

/-- Settles O12: a command word decodes to the command it selects, a token by its flag and symbol field. -/
theorem decodeOfEncodeIsTheInstruction : Obligations.DecodeOfEncodeIsTheInstruction := by
  unfold Obligations.DecodeOfEncodeIsTheInstruction
  intro i rest hwf
  cases i with
  | compress => exact decode_cmd32_append 1#32 rest
  | decompress => exact decode_cmd32_append 2#32 rest
  | illegal w => exact (decode_cmd32_append w rest).trans (by rw [decodeCommand_of_wf hwf])
  | node => rfl
  | leaf sym => exact decode_leaf_append sym rest

/-- Settles O13: the bits read are the first 32 of a command word, the flag 0, or the flag 1 and 9 more. -/
theorem encodeOfDecodeIsTheBits : Obligations.EncodeOfDecodeIsTheBits := by
  unfold Obligations.EncodeOfDecodeIsTheBits
  intro f bits rest i h
  cases f with
  | cmd32 =>
    simp only [decode] at h
    split at h
    · cases h
    next hlen =>
    cases h
    obtain ⟨henc, hwf, hf⟩ := decodeCommand_spec (BitVec.ofNat 32 (val (bits.take 32)))
    refine ⟨?_, hwf, hf⟩
    rw [henc, bin_ofNat_val (by rw [List.length_take]; omega), List.take_append_drop]
  | hdr =>
    rcases bits with _ | ⟨_ | _, bits⟩
    · cases h
    · cases h; exact ⟨rfl, rfl, rfl⟩
    · simp only [decode, decodeToken] at h
      split at h
      · cases h
      next hlen =>
      cases h
      refine ⟨?_, rfl, rfl⟩
      rw [encode, bin_ofNat_val (by rw [List.length_take]; omega), List.cons_append, List.take_append_drop]

/-- Settles O11: closed facts about the decoder. -/
theorem handWrittenWordsDecode : Obligations.HandWrittenWordsDecode := by
  unfold Obligations.HandWrittenWordsDecode
  decide

end Sys2Proof

/-! ## Served runs: the bits a port offers, and what the passes of a command do when every transaction is served -/
namespace Sys2Proof.Machine

variable {s t u : State}

/-! ### Runs of served turns -/

theorem allServed_of_inputs (h : s.allServed) (hi : t.inputs = s.turn.inputs) : t.allServed := by
  intro x hx
  exact turn_allServed h x (hi ▸ hx)

theorem step_of_allServed (h : s.allServed) : step s = coreStep s :=
  step_of_coreTurn (served_iff.mp (served_of_allServed h)).1

theorem draw_of_allServed (h : s.allServed) : s.draw = .serve :=
  (served_iff.mp (served_of_allServed h)).2

/-- `k` steps lead from `s` to `t`, each with one transaction, and the turns that remain are served (R12, R88). -/
structure Serves (k : Nat) (s t : State) : Prop where
  runs : runs k s = .next t
  turns : t.allServed
  trace : t.trace.length = s.trace.length + k

theorem Serves.refl (h : s.allServed) : Serves 0 s s := ⟨rfl, h, rfl⟩

theorem Serves.trans {j k : Nat} (h : Serves j s t) (h' : Serves k t u) : Serves (j + k) s u where
  runs := by rw [runs_add k h.runs, h'.runs]
  turns := h'.turns
  trace := by rw [h'.trace, h.trace]; omega

/-- A served step that issues one transaction. -/
theorem serves_of_step (h : s.allServed) (hs : step s = .next t) (hi : t.inputs = s.turn.inputs := by simp)
    (ht : t.trace.length = s.trace.length + 1 := by simp) : Serves 1 s t where
  runs := by rw [runs_succ 0 hs, runs_zero]
  turns := allServed_of_inputs h hi
  trace := ht

theorem afterRead_frame (n : Nat) (s : State) : s.afterRead n = { s with
    inp := { s.inp with ic := s.inp.ic + n }, inputs := s.turn.inputs
    trace := s.trace ++ [.inRead n (.val (s.inp.field n))] } := by
  rw [State.afterRead, turn_record_frame]

theorem afterEoi_frame (n : Nat) (s : State) : s.afterEoi n = { s with
    inp := s.inp.afterEoi s.freeIdx, freeIdx := s.freeIdx + 1, inputs := s.turn.inputs
    trace := s.trace ++ [.inRead n .eoi] } := by
  rw [State.afterEoi, turn_record_frame]

theorem afterWrite_frame (n v : Nat) (s : State) : s.afterWrite n v = { s with
    out := { s.out with ob := s.out.ob ++ bin n v }, inputs := s.turn.inputs
    trace := s.trace ++ [.outWrite n v .ok] } := by
  rw [State.afterWrite, turn_record_frame]

/-! ### The bits that an input port offers -/

/-- The bits from the cursor on are `bits`, and no end of input stands in the way (R71, R73). -/
structure InPort.Offers (p : InPort) (bits : List Bool) : Prop where
  eoi : p.eoi = false
  ahead : p.ahead = bits

theorem InPort.Offers.not_exhausted {p : InPort} {bits more : List Bool} (h : p.Offers (bits ++ more))
    (hb : bits ≠ []) : p.exhausted bits.length = false := by
  have hlen := congrArg List.length h.ahead
  have hpos := List.length_pos_iff.mpr hb
  rw [ahead_length, List.length_append] at hlen
  exact not_exhausted_iff.mpr ⟨h.eoi, by omega⟩

theorem InPort.Offers.field {p : InPort} {bits more : List Bool} (h : p.Offers (bits ++ more)) :
    p.field bits.length = val bits := by
  rw [InPort.field, h.ahead, List.take_left]

theorem InPort.Offers.advance {p : InPort} {bits more : List Bool} (h : p.Offers (bits ++ more)) :
    InPort.Offers { p with ic := p.ic + bits.length } more where
  eoi := h.eoi
  ahead := by rw [InPort.ahead, ← List.drop_drop]; exact (congrArg _ h.ahead).trans List.drop_left

theorem InPort.Offers.exhausted {p : InPort} {n : Nat} (h : p.Offers []) (hn : 0 < n) : p.exhausted n = true := by
  have hlen := congrArg List.length h.ahead
  rw [ahead_length, List.length_nil] at hlen
  exact exhausted_iff.mpr (.inr (by omega))

/-- A port with its cursor at the first bit offers its source. -/
theorem offers_source (src : List Byte) : InPort.Offers { src := src, ic := 0, eoi := false } (bitsOf src) :=
  ⟨rfl, rfl⟩

theorem InPort.Offers.byte_not_exhausted {p : InPort} {b : Byte} {src : List Byte} (h : p.Offers (bitsOf (b :: src))) :
    p.exhausted 8 = false := by
  simpa using InPort.Offers.not_exhausted (bits := bin 8 b.toNat) h (by simp [bin])

theorem InPort.Offers.byte_field {p : InPort} {b : Byte} {src : List Byte} (h : p.Offers (bitsOf (b :: src))) :
    p.field 8 = b.toNat := by
  simpa [val_bin_of_lt b.isLt] using InPort.Offers.field (bits := bin 8 b.toNat) h

theorem InPort.Offers.byte_advance {p : InPort} {b : Byte} {src : List Byte} (h : p.Offers (bitsOf (b :: src))) :
    InPort.Offers { p with ic := p.ic + 8 } (bitsOf src) := by
  simpa using InPort.Offers.advance (bits := bin 8 b.toNat) h

/-! ### ENCODE -/

theorem coreStep_of_encode (h : s.phase = .encode) : coreStep s = encodeStep s := by
  simp [coreStep, h]

/-- ENCODE's read of a byte that has a code (R280). -/
theorem step_encode_byte {b : Byte} {src : List Byte} (h : s.allServed) (hp : s.phase = .encode)
    (hpe : s.pending = .top) (hin : s.inp.Offers (bitsOf (b :: src))) (hc : (s.code[(byteIndex b).val]).len ≠ 0) :
    step s = .next { s.afterRead 8 with pending := .code (byteIndex b) } := by
  rw [step_of_allServed h, coreStep_of_encode hp]
  simp [encodeStep, hpe, encodeRead, inRead_value (draw_of_allServed h) hin.byte_not_exhausted, hin.byte_field, hc]

/-- ENCODE's read at the end of the source (R282). -/
theorem step_encode_end (h : s.allServed) (hp : s.phase = .encode) (hpe : s.pending = .top) (hin : s.inp.Offers []) :
    step s = .next { s.afterEoi 8 with pending := .code sentinelIndex } := by
  rw [step_of_allServed h, coreStep_of_encode hp]
  simp [encodeStep, hpe, encodeRead, inRead_eoi (draw_of_allServed h) (hin.exhausted (n := 8) (by decide))]

/-- ENCODE's write of a code (R280, R283). -/
theorem step_encode_code {k : Fin 257} (h : s.allServed) (hp : s.phase = .encode) (hpe : s.pending = .code k)
    (ho : s.out.oc = false) (hc : (s.code[k.val]).len ≠ 0) :
    step s = .next { s.afterWrite (s.code[k.val]).len.val (s.code[k.val]).bits.toNat with
      phase := if k = sentinelIndex then .close else .encode, pending := .top } := by
  have hlen : 1 ≤ (s.code[k.val]).len.val := Nat.one_le_iff_ne_zero.mpr fun h0 => hc (Fin.ext h0)
  rw [step_of_allServed h, coreStep_of_encode hp]
  simp only [encodeStep, hpe, encodeWrite, outWrite_ok hlen (by omega) ho (draw_of_allServed h), andThen_next]
  split <;> simp [afterWrite_phase, hp]

theorem byteIndex_ne_sentinelIndex (b : Byte) : byteIndex b ≠ sentinelIndex := by
  intro h
  have hv : b.toNat = 256 := congrArg Fin.val h
  have := b.isLt
  omega

/-- A symbol's code is written: two transactions, of which the first is the read that selects it. -/
theorem serves_code {k : Fin 257} (hp : u.phase = .encode) (ho : u.out.oc = false)
    (hc : (u.code[k.val]).len ≠ 0) (hread : Serves 1 s u) (hpe : u.pending = .code k) :
    ∃ t, Serves 2 s t ∧ t = { u with
      phase := if k = sentinelIndex then .close else .encode, pending := .top
      out := { u.out with ob := u.out.ob ++ (u.code[k.val]).bitString }, inputs := t.inputs, trace := t.trace } := by
  have hwrite := serves_of_step hread.turns (step_encode_code hread.turns hp hpe ho hc)
  refine ⟨_, hread.trans hwrite, ?_⟩
  rw [afterWrite_frame]; rfl

/-- ENCODE of one byte: its code is appended, and the cursor stands behind it (R280, R282). -/
theorem encode_byte {b : Byte} {src : List Byte} (h : s.allServed) (hp : s.phase = .encode) (hpe : s.pending = .top)
    (hin : s.inp.Offers (bitsOf (b :: src))) (ho : s.out.oc = false) (hc : (s.code[(byteIndex b).val]).len ≠ 0) :
    ∃ t, Serves 2 s t ∧ t = { s with
      inp := { s.inp with ic := s.inp.ic + 8 }
      out := { s.out with ob := s.out.ob ++ (s.code[(byteIndex b).val]).bitString }
      inputs := t.inputs, trace := t.trace } := by
  have hread := serves_of_step h (step_encode_byte h hp hpe hin hc)
  obtain ⟨t, ht, hframe⟩ := serves_code (by simpa using hp) (by simpa using ho) (by simpa using hc) hread rfl
  refine ⟨t, ht, hframe.trans ?_⟩
  rw [afterRead_frame, if_neg (byteIndex_ne_sentinelIndex b), ← hp, ← hpe]

/-- ENCODE at the end of the source: the sentinel's code is appended, and CLOSE is next (R283). -/
theorem encode_end (h : s.allServed) (hp : s.phase = .encode) (hpe : s.pending = .top)
    (hin : s.inp.Offers []) (ho : s.out.oc = false) (hc : (s.code[sentinelIndex.val]).len ≠ 0) :
    ∃ t, Serves 2 s t ∧ t = { s with
      phase := .close, inp := s.inp.afterEoi s.freeIdx, freeIdx := s.freeIdx + 1
      out := { s.out with ob := s.out.ob ++ (s.code[sentinelIndex.val]).bitString }
      inputs := t.inputs, trace := t.trace } := by
  have hread := serves_of_step h (step_encode_end h hp hpe hin)
  obtain ⟨t, ht, hframe⟩ := serves_code (by simpa using hp) (by simpa using ho) (by simpa using hc) hread rfl
  refine ⟨t, ht, hframe.trans ?_⟩
  rw [afterEoi_frame, if_pos rfl, ← hpe]

/-- The second pass over a source whose bytes all have codes (R121, R280, R282, R283). -/
theorem encode_source (src : List Byte) (h : s.allServed) (hp : s.phase = .encode) (hpe : s.pending = .top)
    (hin : s.inp.Offers (bitsOf src)) (ho : s.out.oc = false)
    (hc : ∀ b ∈ src, (s.code[(byteIndex b).val]).len ≠ 0) (hsent : (s.code[sentinelIndex.val]).len ≠ 0) :
    ∃ t, Serves (2 * src.length + 2) s t ∧ t.inp.src = s.inp.src ∧ t = { s with
      phase := .close, out := { s.out with ob := s.out.ob ++ payload s.code src }
      inp := t.inp, freeIdx := t.freeIdx, inputs := t.inputs, trace := t.trace } := by
  induction src generalizing s with
  | nil =>
    obtain ⟨t, ht, hframe⟩ := encode_end h hp hpe hin ho hsent
    exact ⟨t, ht, by rw [hframe]; rfl, by rw [hframe]; rfl⟩
  | cons b src ih =>
    obtain ⟨u, hu, huf⟩ := encode_byte h hp hpe hin ho (hc b List.mem_cons_self)
    have hsrc : u.inp.Offers (bitsOf src) := by rw [huf]; exact hin.byte_advance
    have hcode : u.code = s.code := by rw [huf]
    have huout : u.out = { s.out with ob := s.out.ob ++ (s.code[(byteIndex b).val]).bitString } := by rw [huf]
    obtain ⟨t, ht, hsrc', htf⟩ := ih hu.turns (by rw [huf]; exact hp) (by rw [huf]; exact hpe) hsrc
      (by rw [huf]; exact ho) (by rw [hcode]; exact fun c hm => hc c (List.mem_cons_of_mem b hm))
      (by rw [hcode]; exact hsent)
    refine ⟨t, ?_, ?_, htf.trans ?_⟩
    · have hk : 2 * (b :: src).length + 2 = 2 + (2 * src.length + 2) := by rw [List.length_cons]; omega
      exact hk ▸ hu.trans ht
    · rw [hsrc', huf]
    · rw [hcode, huout, huf]
      simp [payload]

/-- Settles O44: the second pass (`encode_source`), by induction on the source. -/
theorem encodePassWritesThePayload : Obligations.EncodePassWritesThePayload := by
  unfold Obligations.EncodePassWritesThePayload
  intro s src h hp hpe hin ho hc hsent
  obtain ⟨t, ht, hsrc, hframe⟩ := encode_source src h hp hpe (hin ▸ offers_source src) ho hc hsent
  refine ⟨t, ht.runs, ?_, ?_, ?_, ?_, by rw [hsrc, hin]⟩ <;> rw [hframe]

/-! ### WRITE_HEADER -/

/-- NODE written (R251). -/
theorem exec_node_written {f : Frame} {rest : List Frame} (hp : s.phase = .wheader) (hk : s.hstack = f :: rest)
    (ho : s.out.oc = false) (hd : s.draw = .serve) :
    exec .node s = .next { s.afterWrite 1 0 with
      hstack := pendingNode (s.nodeAt f.node).l :: pendingNode (s.nodeAt f.node).r :: rest } := by
  rw [exec, execNode_of_wheader hp]
  simp [writeNodeToken, hk, outWrite_ok (n := 1) (by decide) (by decide) ho hd]

/-- LEAF written: its flag (R252). -/
theorem exec_leaf_flag_written {sym : Symbol} {f : Frame} {rest : List Frame} (hp : s.phase = .wheader)
    (hk : s.hstack = f :: rest) (hpe : s.pending ≠ .symField) (ho : s.out.oc = false) (hd : s.draw = .serve) :
    exec (.leaf sym) s = .next { s.afterWrite 1 1 with pending := .symField } := by
  rw [exec, execLeaf_of_wheader hp]
  simp [writeLeafToken, hk, hpe, outWrite_ok (n := 1) (by decide) (by decide) ho hd]

/-- LEAF written: its symbol, after the flag (R252). -/
theorem exec_leaf_symbol_written {sym : Symbol} {f : Frame} {rest : List Frame} (hp : s.phase = .wheader)
    (hk : s.hstack = f :: rest) (hpe : s.pending = .symField) (ho : s.out.oc = false) (hd : s.draw = .serve) :
    exec (.leaf sym) s = .next (headerWritten rest (s.afterWrite 9 sym.toNat)) := by
  rw [exec, execLeaf_of_wheader hp]
  simp [writeLeafToken, hk, hpe, outWrite_ok (n := 9) (by decide) (by decide) ho hd]

/-- The token of the pending node is written next (R250). -/
theorem step_wheader {i : NodeIdx} {rest : List Frame} (h : s.allServed) (hp : s.phase = .wheader)
    (hk : s.hstack = pendingNode i :: rest) : step s = exec (s.nodeAt i).token s := by
  rw [step_of_allServed h, coreStep_of_wheader hp, writeHeaderStep_of_cons hk]; rfl

theorem token_of_leaf {e : NodeEntry} (h : e.isLeaf = true) : e.token = .leaf e.sym := by
  simp [NodeEntry.token, h]

theorem token_of_node {e : NodeEntry} (h : e.isLeaf = false) : e.token = .node := by
  simp [NodeEntry.token, h]

/-- A pending internal node: its token is written, and its children are pending (R251). -/
theorem writeHeader_node {i : NodeIdx} {rest : List Frame} (h : s.allServed) (hp : s.phase = .wheader)
    (hk : s.hstack = pendingNode i :: rest) (ho : s.out.oc = false) (hl : (s.nodeAt i).isLeaf = false) :
    ∃ t, Serves 1 s t ∧ t = { s with
      hstack := pendingNode (s.nodeAt i).l :: pendingNode (s.nodeAt i).r :: rest
      out := { s.out with ob := s.out.ob ++ encode .node }, inputs := t.inputs, trace := t.trace } := by
  have hs := step_wheader h hp hk
  rw [token_of_node hl, exec_node_written hp hk ho (draw_of_allServed h)] at hs
  refine ⟨_, serves_of_step h hs, ?_⟩
  rw [afterWrite_frame]; rfl

/-- A pending leaf: its flag is written (R252). -/
theorem writeHeader_flag {i : NodeIdx} {rest : List Frame} (h : s.allServed) (hp : s.phase = .wheader)
    (hpe : s.pending ≠ .symField) (hk : s.hstack = pendingNode i :: rest) (ho : s.out.oc = false)
    (hl : (s.nodeAt i).isLeaf = true) :
    ∃ t, Serves 1 s t ∧ t = { s with
      pending := .symField, out := { s.out with ob := s.out.ob ++ [true] }, inputs := t.inputs, trace := t.trace } := by
  have hs := step_wheader h hp hk
  rw [token_of_leaf hl, exec_leaf_flag_written hp hk hpe ho (draw_of_allServed h)] at hs
  refine ⟨_, serves_of_step h hs, ?_⟩
  rw [afterWrite_frame]; rfl

/-- A pending leaf whose flag is written: its symbol is written, and it is done (R252). -/
theorem writeHeader_symbol {i : NodeIdx} {rest : List Frame} (h : s.allServed) (hp : s.phase = .wheader)
    (hpe : s.pending = .symField) (hk : s.hstack = pendingNode i :: rest) (ho : s.out.oc = false)
    (hl : (s.nodeAt i).isLeaf = true) :
    ∃ t, Serves 1 s t ∧ t = { headerWritten rest s with
      out := { s.out with ob := s.out.ob ++ bin 9 (s.nodeAt i).sym.toNat }, inputs := t.inputs, trace := t.trace } := by
  have hs := step_wheader h hp hk
  rw [token_of_leaf hl, exec_leaf_symbol_written hp hk hpe ho (draw_of_allServed h)] at hs
  refine ⟨_, serves_of_step h hs, ?_⟩
  rw [afterWrite_frame]; rfl

theorem symbols_length_pos (T : Tree) : 0 < T.symbols.length := by
  induction T with
  | leaf sym w => exact Nat.one_pos
  | node w l r ihl ihr => rw [Tree.symbols, List.length_append]; omega

/-- The subtree of a pending node is written, in a transaction for every internal node and two for every leaf
(R116, R250 to R252). -/
theorem writeHeader_subtree {T : Tree} {i : NodeIdx} {rest : List Frame} (h : s.allServed) (hp : s.phase = .wheader)
    (hpe : s.pending = .top) (hk : s.hstack = pendingNode i :: rest) (ho : s.out.oc = false) (hT : Holds s.node i T) :
    ∃ t, Serves (3 * T.symbols.length - 1) s t ∧ t = { headerWritten rest s with
      out := { s.out with ob := s.out.ob ++ T.header }, inputs := t.inputs, trace := t.trace } := by
  induction T generalizing s i rest with
  | leaf sym w =>
    obtain ⟨hl, hsym, -⟩ := hT
    obtain ⟨u, hu, huf⟩ := writeHeader_flag h hp (by simp [hpe]) hk ho hl
    obtain ⟨t, ht, htf⟩ := writeHeader_symbol (i := i) (rest := rest) hu.turns (by rw [huf]; exact hp) (by rw [huf])
      (by rw [huf]; exact hk) (by rw [huf]; exact ho) (by rw [huf]; exact hl)
    refine ⟨t, hu.trans ht, htf.trans ?_⟩
    have hout : u.out.ob ++ bin 9 (u.nodeAt i).sym.toNat = s.out.ob ++ (Tree.leaf sym w).header := by
      rw [huf, ← hsym]
      simp [Tree.header, encode, State.nodeAt]
    rw [hout, huf]; rfl
  | node w l r ihl ihr =>
    obtain ⟨hi, -, hl, hr⟩ := hT
    obtain ⟨u, hu, huf⟩ := writeHeader_node h hp hk ho hi
    obtain ⟨v, hv, hvf⟩ := ihl hu.turns (by rw [huf]; exact hp) (by rw [huf]; exact hpe) (by rw [huf])
      (by rw [huf]; exact ho) (by rw [huf]; exact hl)
    have hvout : v.out = { s.out with ob := s.out.ob ++ encode .node ++ l.header } := by rw [hvf, huf]
    obtain ⟨t, ht, htf⟩ := ihr hv.turns (by rw [hvf]; rfl) (by rw [hvf]; rfl) (by rw [hvf]; rfl)
      (by rw [hvout]; exact ho) (by rw [hvf, huf]; exact hr)
    refine ⟨t, ?_, htf.trans ?_⟩
    · have hlpos := symbols_length_pos l
      have hrpos := symbols_length_pos r
      have hk : 3 * (Tree.node w l r).symbols.length - 1 =
          1 + (3 * l.symbols.length - 1) + (3 * r.symbols.length - 1) := by
        rw [Tree.symbols, List.length_append]; omega
      exact hk ▸ (hu.trans hv).trans ht
    · have hhead : s.out.ob ++ encode .node ++ l.header ++ r.header = s.out.ob ++ (Tree.node w l r).header := by
        simp [Tree.header]
      rw [hvout, hhead, hvf, huf]; rfl

/-- WRITE_HEADER writes the preorder serialization of the tree at the root, and REWIND is next (R116, R250, R158). -/
theorem writeHeader_root {T : Tree} (h : s.allServed) (hp : s.phase = .wheader) (hpe : s.pending = .top)
    (hk : s.hstack = [pendingNode s.root]) (ho : s.out.oc = false) (hT : Holds s.node s.root T) :
    ∃ t, Serves (3 * T.symbols.length - 1) s t ∧ t = { s with
      phase := .rewind, pending := .top, hstack := []
      out := { s.out with ob := s.out.ob ++ T.header }, inputs := t.inputs, trace := t.trace } :=
  writeHeader_subtree h hp hpe hk ho hT

/-- Settles O41: the tree at the root is written (`writeHeader_root`), by induction on the tree. -/
theorem writeHeaderWritesThePreorder : Obligations.WriteHeaderWritesThePreorder := by
  unfold Obligations.WriteHeaderWritesThePreorder
  intro s T h hp hpe hk ho hT
  obtain ⟨t, ht, hframe⟩ := writeHeader_root h hp hpe hk ho hT
  exact ⟨t, reaches_of_runs ht.runs, by rw [hframe], by rw [hframe], by rw [hframe]⟩

/-! ### DECODE -/

theorem coreStep_of_decode (h : s.phase = .decode) : coreStep s = decodeStep s := by
  simp [coreStep, h]

/-- DECODE's read of one bit (R285, R286). -/
theorem step_decode_bit {b : Bool} {more : List Bool} (h : s.allServed) (hp : s.phase = .decode)
    (hpe : s.pending = .top) (hin : s.inp.Offers (b :: more)) :
    step s = .next (reach (nextNode s b) (s.afterRead 1)) := by
  have hx : s.inp.exhausted 1 = false := InPort.Offers.not_exhausted (bits := [b]) hin (by simp)
  have hv : s.inp.field 1 = b.toNat := by
    exact (InPort.Offers.field (bits := [b]) hin).trans (by cases b <;> rfl)
  have hnext : nextNode (s.afterRead 1) b = nextNode s b := by rw [afterRead_frame]; rfl
  rw [step_of_allServed h, coreStep_of_decode hp]
  simp [decodeStep, hpe, decodeRead, inRead_value (draw_of_allServed h) hx, hv, hnext]

/-- Reaching a node writes STATUS, ERRINFO, CUR and where the core stands, and nothing else (R285). -/
theorem reach_frame (i : NodeIdx) (s : State) : reach i s = { s with
    status := (reach i s).status, errinfo := (reach i s).errinfo, phase := (reach i s).phase
    pending := (reach i s).pending, cur := (reach i s).cur } := by
  unfold reach
  split_ifs <;> rfl

@[simp] theorem reach_inputs (i : NodeIdx) (s : State) : (reach i s).inputs = s.inputs := by rw [reach_frame]
@[simp] theorem reach_trace (i : NodeIdx) (s : State) : (reach i s).trace = s.trace := by rw [reach_frame]
@[simp] theorem reach_inp (i : NodeIdx) (s : State) : (reach i s).inp = s.inp := by rw [reach_frame]
@[simp] theorem reach_out (i : NodeIdx) (s : State) : (reach i s).out = s.out := by rw [reach_frame]
@[simp] theorem reach_nodes (i : NodeIdx) (s : State) : (reach i s).node = s.node := by rw [reach_frame]
@[simp] theorem reach_root (i : NodeIdx) (s : State) : (reach i s).root = s.root := by rw [reach_frame]

theorem reach_node {i : NodeIdx} (h : (s.nodeAt i).isLeaf = false) :
    reach i s = { s with cur := i, pending := .top } := by
  simp [reach, h]

theorem reach_sentinel {i : NodeIdx} (h : (s.nodeAt i).isLeaf = true) (hs : (s.nodeAt i).sym.toNat = 256) :
    reach i s = { s with phase := .close, pending := .top } := by
  have hsym : (s.nodeAt i).sym = sentinel := BitVec.eq_of_toNat_eq hs
  simp [reach, h, hsym]

theorem reach_above {i : NodeIdx} (h : (s.nodeAt i).isLeaf = true) (hs : 256 < (s.nodeAt i).sym.toNat) :
    reach i s = raise .badSymbol ((s.nodeAt i).sym.setWidth 32) s := by
  have hsym : (s.nodeAt i).sym ≠ sentinel := fun he => by simp [he] at hs
  simp [reach, h, hsym, hs]

theorem reach_literal {i : NodeIdx} (h : (s.nodeAt i).isLeaf = true) (hs : (s.nodeAt i).sym.toNat < 256) :
    reach i s = { s with pending := .literal ((s.nodeAt i).sym.setWidth 8) } := by
  have hsym : (s.nodeAt i).sym ≠ sentinel := fun he => by simp [he] at hs
  simp [reach, h, hsym, Nat.le_of_lt hs]

/-- A path of an internal node is a bit and a path of the child that the bit leads to (R232). -/
theorem mem_paths_node {w : Nat} {l r : Tree} {sym : Symbol} {p : List Bool} :
    (sym, p) ∈ (Tree.node w l r).paths ↔ ∃ b q, p = b :: q ∧ (sym, q) ∈ (bif b then r else l).paths := by
  simp [Tree.paths, eq_comm, and_comm]

theorem nextNode_leaf (h : (s.nodeAt s.cur).isLeaf = true) (b : Bool) : nextNode s b = s.cur := by
  simp [nextNode, h]

/-- From an internal node a bit leads to the child it names (R286). -/
theorem holds_nextNode {w : Nat} {l r : Tree} (h : Holds s.node s.cur (.node w l r)) (b : Bool) :
    Holds s.node (nextNode s b) (bif b then r else l) := by
  obtain ⟨hi, -, hl, hr⟩ := h
  cases b <;> simpa [nextNode, State.nodeAt, hi]

/-- The bits of a path from an internal node lead to the path's leaf, one transaction a bit (R285 to R287). -/
theorem decode_path {w : Nat} {l r : Tree} {sym : Symbol} {p more : List Bool} (h : s.allServed)
    (hp : s.phase = .decode) (hpe : s.pending = .top) (hT : Holds s.node s.cur (.node w l r))
    (hm : (sym, p) ∈ (Tree.node w l r).paths) (hin : s.inp.Offers (p ++ more)) :
    ∃ i u, Serves p.length s (reach i u) ∧ (s.nodeAt i).isLeaf = true ∧ (s.nodeAt i).sym = sym ∧ u = { s with
      cur := u.cur, inp := { s.inp with ic := s.inp.ic + p.length }, inputs := u.inputs, trace := u.trace } := by
  induction p generalizing s w l r with
  | nil => simp [mem_paths_node] at hm
  | cons b p ih =>
    have hm : (sym, p) ∈ (bif b then r else l).paths := by simpa [mem_paths_node] using hm
    have hchild := holds_nextNode hT b
    have hread := serves_of_step h (step_decode_bit h hp hpe hin)
    have hmore := InPort.Offers.advance (bits := [b]) hin
    generalize (bif b then r else l) = c at hm hchild
    cases c with
    | leaf sym' w' =>
      obtain ⟨rfl, rfl⟩ : sym = sym' ∧ p = [] := by simpa [Tree.paths] using hm
      obtain ⟨hl, hsym, -⟩ := hchild
      exact ⟨nextNode s b, s.afterRead 1, hread, hl, hsym, by rw [afterRead_frame]; rfl⟩
    | node w' l' r' =>
      have hi : ((s.afterRead 1).nodeAt (nextNode s b)).isLeaf = false := by
        rw [afterRead_frame]; exact hchild.1
      rw [reach_node hi] at hread
      obtain ⟨i, u, hu, hl, hsym, hframe⟩ := ih hread.turns (by simpa using hp) rfl (by simpa using hchild) hm
        (by simpa using hmore)
      refine ⟨i, u, ?_, by simpa [State.nodeAt] using hl, by simpa [State.nodeAt] using hsym, hframe.trans ?_⟩
      · rw [List.length_cons, Nat.add_comm]; exact hread.trans hu
      · rw [afterRead_frame, List.length_cons, ← hpe]
        simp only [Nat.add_assoc, Nat.add_comm 1]

/-- The bits of a leaf's code lead from the root to the leaf (R286, R287, R293). -/
theorem decode_code {T : Tree} {sym : Symbol} {p more : List Bool} (h : s.allServed) (hp : s.phase = .decode)
    (hpe : s.pending = .top) (hT : Holds s.node s.cur T) (hm : (sym, p) ∈ T.codes) (hin : s.inp.Offers (p ++ more)) :
    ∃ i u, Serves p.length s (reach i u) ∧ (s.nodeAt i).isLeaf = true ∧ (s.nodeAt i).sym = sym ∧ u = { s with
      cur := u.cur, inp := { s.inp with ic := s.inp.ic + p.length }, inputs := u.inputs, trace := u.trace } := by
  cases T with
  | leaf sym' w =>
    obtain ⟨rfl, rfl⟩ : sym = sym' ∧ p = [false] := by simpa [Tree.codes] using hm
    obtain ⟨hl, hsym, -⟩ := hT
    have hread := serves_of_step h (step_decode_bit h hp hpe hin)
    rw [nextNode_leaf hl] at hread
    exact ⟨s.cur, s.afterRead 1, hread, hl, hsym, by rw [afterRead_frame]; rfl⟩
  | node w l r => exact decode_path h hp hpe hT hm hin

/-- Settles O50: the bits lead to the leaf (`decode_code`), and its symbol says what reaching it leads to. -/
theorem decodeOfACodeReachesItsLeaf : Obligations.DecodeOfACodeReachesItsLeaf := by
  unfold Obligations.DecodeOfACodeReachesItsLeaf
  intro s T sym p rest h hp hpe hcur hT hm he _ ha
  obtain ⟨i, u, hu, hl, hsym, hframe⟩ := decode_code h hp hpe (hcur ▸ hT) hm ⟨he, ha⟩
  have hnode : u.nodeAt i = s.nodeAt i := by rw [hframe]; rfl
  rw [← hnode] at hl hsym
  subst hsym
  refine ⟨reach i u, hu.runs, by rw [reach_inp, hframe], by rw [reach_out, hframe], by rw [reach_nodes, hframe],
    by rw [reach_root, hframe], fun hlt => ?literal, fun heq => ?sentinel, fun hgt => ?above⟩
  case literal => rw [reach_literal hl hlt]; exact ⟨by rw [hframe]; exact hp, by rw [hframe], rfl⟩
  case sentinel => rw [reach_sentinel hl heq]; exact ⟨rfl, by rw [hframe]⟩
  case above => rw [reach_above hl hgt]; exact ⟨rfl, by rw [raise_status, hframe], rfl⟩

end Sys2Proof.Machine

/-! ## COMPRESS: the tree of the counts, its codes, and the artifact -/
namespace Sys2Proof.Machine

variable {s t u : State}

/-! ### Trees -/

theorem symbols_eq_map_leaves (T : Tree) : T.symbols = T.leaves.map Prod.fst := by
  induction T with
  | leaf sym w => rfl
  | node w l r ihl ihr => simp [Tree.symbols, Tree.leaves, ihl, ihr]

theorem symbols_eq_map_paths (T : Tree) : T.symbols = T.paths.map Prod.fst := by
  induction T with
  | leaf sym w => rfl
  | node w l r ihl ihr => simp [Tree.symbols, Tree.paths, ihl, ihr, Function.comp_def]

theorem mem_symbols_of_mem_paths {T : Tree} {sym : Symbol} {p : List Bool} (h : (sym, p) ∈ T.paths) :
    sym ∈ T.symbols := by
  rw [symbols_eq_map_paths]
  exact List.mem_map_of_mem h

theorem weight_eq_sum_leaves {T : Tree} (h : T.sums = true) : T.weight = (T.leaves.map Prod.snd).sum := by
  induction T with
  | leaf sym w => rfl
  | node w l r ihl ihr =>
    obtain ⟨⟨hw, hl⟩, hr⟩ : (w = l.weight + r.weight ∧ l.sums = true) ∧ r.sums = true := by simpa [Tree.sums] using h
    rw [Tree.weight, hw, ihl hl, ihr hr, Tree.leaves, List.map_append, List.sum_append]

/-- Distinct symbols up to 256 are at most 257 (R48). -/
theorem length_le_of_nodup_symbols {l : List Symbol} (hnd : l.Nodup) (hle : ∀ x ∈ l, x.toNat ≤ 256) :
    l.length ≤ 257 := by
  have hmap : (l.map BitVec.toNat).Nodup := hnd.map fun _ _ => BitVec.eq_of_toNat_eq
  have hsub : l.map BitVec.toNat ⊆ List.range 257 := by
    intro n hn
    obtain ⟨x, hx, rfl⟩ := List.mem_map.mp hn
    exact List.mem_range.mpr (Nat.lt_succ_of_le (hle x hx))
  simpa using (List.subperm_of_subset hmap hsub).length_le

/-- Every leaf symbol of a tree has a code, which is not empty (R232, R233). -/
theorem exists_code {T : Tree} {sym : Symbol} (h : sym ∈ T.symbols) : ∃ p, (sym, p) ∈ T.codes ∧ p ≠ [] := by
  cases T with
  | leaf sym' w =>
    obtain rfl : sym = sym' := by simpa [Tree.symbols] using h
    exact ⟨[false], by simp [Tree.codes], by simp⟩
  | node w l r =>
    rw [symbols_eq_map_paths] at h
    obtain ⟨⟨_, p⟩, hm, rfl⟩ := List.mem_map.mp h
    refine ⟨p, hm, ?_⟩
    obtain ⟨b, q, rfl, -⟩ := mem_paths_node.mp hm
    simp

/-! ### GENCODES -/

/-- The symbol of an index of CODE. -/
def indexSymbol (k : Fin 257) : Symbol := BitVec.ofNat 9 k.val

theorem indexSymbol_toNat (k : Fin 257) : (indexSymbol k).toNat = k.val := by
  have := k.isLt
  simp only [indexSymbol, BitVec.toNat_ofNat]
  omega

/-- `after` is `before` once VISIT has walked a subtree whose path is `p`: its leaves have their paths as codes, and
nothing else has changed (R230, R232). -/
structure Visited (T : Tree) (p : List Bool) (before after : Vector CodeEntry 257) : Prop where
  coded : ∀ k q, (indexSymbol k, q) ∈ T.paths → (after[k.val]).bitString = p ++ q
  others : ∀ k, indexSymbol k ∉ T.symbols → after[k.val] = before[k.val]

theorem setCode_visited {sym : Symbol} {p : List Bool} (w : Nat) (hs : sym.toNat ≤ 256) (hp : p.length ≤ 256) :
    ∃ c, setCode sym p s = .next { s with code := c } ∧ Visited (.leaf sym w) p s.code c := by
  refine ⟨_, setCode_of_le (by omega) (by omega), fun k q hm => ?_, fun k hk => ?_⟩
  · obtain ⟨rfl, rfl⟩ : indexSymbol k = sym ∧ q = [] := by simpa [Tree.paths] using hm
    simp only [indexSymbol_toNat, Vector.getElem_set_self, List.append_nil]
    exact bitString_of_path p _
  · have hne : sym.toNat ≠ k.val := by
      intro h
      refine hk (List.mem_singleton.mpr (BitVec.eq_of_toNat_eq ?_))
      rw [indexSymbol_toNat, h]
    exact Vector.getElem_set_ne _ _ hne

theorem Visited.node {w : Nat} {l r : Tree} {p : List Bool} {c c' c'' : Vector CodeEntry 257}
    (hl : Visited l (p ++ [false]) c c') (hr : Visited r (p ++ [true]) c' c'') (hnd : (Tree.node w l r).symbols.Nodup) :
    Visited (.node w l r) p c c'' where
  coded k q hm := by
    obtain ⟨b, q, rfl, hq⟩ := mem_paths_node.mp hm
    cases b with
    | false =>
      obtain ⟨-, -, hdisjoint⟩ := List.nodup_append.mp hnd
      have hk : indexSymbol k ∉ r.symbols := fun hr => hdisjoint _ (mem_symbols_of_mem_paths hq) _ hr rfl
      rw [hr.others k hk, hl.coded k q hq, List.append_assoc]; rfl
    | true => rw [hr.coded k q hq, List.append_assoc]; rfl
  others k hk := by
    obtain ⟨hkl, hkr⟩ : indexSymbol k ∉ l.symbols ∧ indexSymbol k ∉ r.symbols := by simpa [Tree.symbols] using hk
    rw [hr.others k hkr, hl.others k hkl]

/-- VISIT of a subtree whose symbols fit in CODE, and whose leaves can be no deeper than 256 (R230, R232, R234). -/
theorem visit_holds {T : Tree} {levels : Nat} {i : NodeIdx} {p : List Bool} (hT : Holds s.node i T)
    (hnd : T.symbols.Nodup) (hle : ∀ x ∈ T.symbols, x.toNat ≤ 256) (hlev : T.symbols.length ≤ levels)
    (hp : p.length + T.symbols.length ≤ 257) :
    ∃ c, visit levels i p s = .next { s with code := c } ∧ Visited T p s.code c := by
  induction T generalizing s levels i p with
  | leaf sym w =>
    obtain ⟨levels, rfl⟩ := Nat.exists_eq_succ_of_ne_zero (Nat.one_le_iff_ne_zero.mp hlev)
    obtain ⟨hi, hsym, -⟩ := hT
    have hvisit : visit (levels + 1) i p s = setCode sym p s := by
      simp [visit, State.nodeAt, hi, hsym]
    rw [hvisit]
    exact setCode_visited w (hle sym (by simp [Tree.symbols])) (Nat.le_of_lt_succ hp)
  | node w l r ihl ihr =>
    have hlpos := symbols_length_pos l
    have hrpos := symbols_length_pos r
    rw [Tree.symbols, List.length_append] at hlev hp
    obtain ⟨levels, rfl⟩ := Nat.exists_eq_succ_of_ne_zero (n := levels) (by omega)
    obtain ⟨hi, -, hTl, hTr⟩ := hT
    obtain ⟨hndl, hndr, -⟩ := List.nodup_append.mp hnd
    obtain ⟨c, hc, hcl⟩ := ihl (levels := levels) (p := p ++ [false]) hTl hndl
      (fun x hx => hle x (List.mem_append_left _ hx)) (by omega) (by simp; omega)
    obtain ⟨c', hc', hcr⟩ := ihr (s := { s with code := c }) (levels := levels) (p := p ++ [true]) hTr hndr
      (fun x hx => hle x (List.mem_append_right _ hx)) (by omega) (by simp; omega)
    refine ⟨c', ?_, hcl.node hcr hnd⟩
    rw [visit, State.nodeAt, hi, if_neg (by simp), hc]
    exact hc'

/-- CODE holds a tree's codes once they are entered in an empty table. -/
theorem codesAre_of_visited {T : Tree} {p : List Bool} {c : Vector CodeEntry 257}
    (h : Visited T p (Vector.replicate 257 CodeEntry.zero) c)
    (hcodes : T.codes = T.paths.map fun x => (x.1, p ++ x.2)) :
    CodesAre c T.codes := by
  refine ⟨fun k q hm => ?_, fun k hk => ?_⟩
  · rw [hcodes] at hm
    obtain ⟨⟨sym, q⟩, hx, heq⟩ := List.mem_map.mp hm
    obtain ⟨rfl, rfl⟩ := Prod.mk.inj heq
    exact h.coded k q hx
  · have hsym : indexSymbol k ∉ T.symbols := fun hm => by
      obtain ⟨q, hq, -⟩ := exists_code hm
      exact hk q hq
    rw [h.others k hsym, Vector.getElem_replicate]
    rfl

/-- GENCODES of a tree in the node store whose symbols are distinct and fit in CODE (R230 to R233). -/
theorem gencodes_holds {T : Tree} (hT : Holds s.node s.root T) (hnd : T.symbols.Nodup)
    (hle : ∀ x ∈ T.symbols, x.toNat ≤ 256) :
    ∃ c, gencodes s = .next { s with phase := .wmagic, pending := .top, code := c } ∧ CodesAre c T.codes := by
  have hlen := length_le_of_nodup_symbols hnd hle
  suffices h : ∃ c, assignCodes (startGencodes s) = .next { startGencodes s with code := c } ∧ CodesAre c T.codes by
    obtain ⟨c, hc, hcodes⟩ := h
    exact ⟨c, by rw [gencodes, hc]; rfl, hcodes⟩
  cases T with
  | leaf sym w =>
    obtain ⟨hi, hsym, -⟩ := hT
    have hassign : assignCodes (startGencodes s) = setCode sym [false] (startGencodes s) := by
      simp [assignCodes, startGencodes, State.nodeAt, hi, hsym]
    obtain ⟨c, hc, hv⟩ := setCode_visited (s := startGencodes s) (p := [false]) w (hle sym (by simp [Tree.symbols]))
      (by simp)
    exact ⟨c, hassign.trans hc, codesAre_of_visited hv rfl⟩
  | node w l r =>
    have hassign : assignCodes (startGencodes s) = visit (hstackCap + 1) s.root [] (startGencodes s) := by
      simp [assignCodes, startGencodes, State.nodeAt, hT.1]
    obtain ⟨c, hc, hv⟩ := visit_holds (s := startGencodes s) (levels := hstackCap + 1) (p := []) hT hnd hle
      (by rw [hstackCap]; omega) (by simpa using hlen)
    exact ⟨c, hassign.trans hc, codesAre_of_visited hv (by simp [Tree.codes])⟩

/-! ### BUILD -/

/-- The node store holds a tree at an index within its first `n` entries: so does every store that begins with those. -/
structure HoldsWithin (n : Nat) (store : Vector NodeEntry 513) (i : NodeIdx) (T : Tree) : Prop where
  lt : i.val < n
  stable : ∀ store' : Vector NodeEntry 513, (∀ j : NodeIdx, j.val < n → store'[j.val] = store[j.val]) →
    Holds store' i T

theorem HoldsWithin.holds {n : Nat} {store : Vector NodeEntry 513} {i : NodeIdx} {T : Tree}
    (h : HoldsWithin n store i T) : Holds store i T :=
  h.stable store fun _ _ => rfl

/-- The next entry of the store may be written (R200). -/
theorem HoldsWithin.set_next {n : Nat} {store : Vector NodeEntry 513} {i : NodeIdx} {T : Tree}
    (h : HoldsWithin n store i T) (hn : n < 513) (e : NodeEntry) : HoldsWithin (n + 1) (store.set n e) i T where
  lt := Nat.lt_succ_of_lt h.lt
  stable store' heq := h.stable store' fun j hj => by
    rw [heq j (Nat.lt_succ_of_lt hj), Vector.getElem_set_ne _ _ (Nat.ne_of_gt hj)]

theorem holdsWithin_leaf {n : Nat} {store : Vector NodeEntry 513} {i : NodeIdx} {e : NodeEntry} {sym : Symbol} {w : Nat}
    (hi : i.val < n) (he : store[i.val] = e) (hl : e.isLeaf = true) (hsym : e.sym = sym) (hw : e.w = w) :
    HoldsWithin n store i (.leaf sym w) where
  lt := hi
  stable store' heq := by
    rw [Holds, (heq i hi).trans he]
    exact ⟨hl, hsym, hw⟩

theorem holdsWithin_node {n : Nat} {store : Vector NodeEntry 513} {i : NodeIdx} {e : NodeEntry} {l r : Tree}
    (hi : i.val < n) (he : store[i.val] = e) (hnode : e.isLeaf = false) (hl : HoldsWithin n store e.l l)
    (hr : HoldsWithin n store e.r r) : HoldsWithin n store i (.node e.w l r) where
  lt := hi
  stable store' heq := by
    rw [Holds, (heq i hi).trans he]
    exact ⟨hnode, rfl, hl.stable store' heq, hr.stable store' heq⟩

theorem holds_weight {store : Vector NodeEntry 513} {i : NodeIdx} {T : Tree} (h : Holds store i T) :
    (store[i.val]).w = T.weight := by
  cases T with
  | leaf sym w => obtain ⟨-, -, hw⟩ := h; exact hw
  | node w l r => obtain ⟨-, hw, -⟩ := h; exact hw

/-- Q holds the roots of a forest, `tree i` at index `i`, whose leaves are `L` (R203, R206, R209). Every node of it is
allocated, and `room` says how many are. -/
structure Forest (s : State) (tree : NodeIdx → Tree) (L : List (Symbol × Nat)) : Prop where
  held : ∀ i ∈ s.q, HoldsWithin s.nnodes s.node i (tree i)
  sums : ∀ i ∈ s.q, (tree i).sums = true
  perm : (s.q.flatMap fun i => (tree i).leaves).Perm L
  room : s.nnodes + s.q.length = 2 * L.length

/-- A tree is put at the next entry and into Q, in the place of nodes that leave Q (R200, R206). -/
theorem Forest.push {tree : NodeIdx → Tree} {L L' : List (Symbol × Nat)} {q : List NodeIdx} {e : NodeEntry} {T : Tree}
    (h : Forest s tree L) (hn : s.nnodes < 513) (hq : q ⊆ s.q)
    (hT : HoldsWithin (s.nnodes + 1) (s.node.set s.nnodes e) ⟨s.nnodes, hn⟩ T) (hsums : T.sums = true)
    (hleaves : ((q.flatMap fun i => (tree i).leaves) ++ T.leaves).Perm L')
    (hroom : s.nnodes + q.length + 2 = 2 * L'.length) :
    Forest { s with nnodes := s.nnodes + 1, node := s.node.set s.nnodes e, q := q ++ [⟨s.nnodes, hn⟩] }
      (Function.update tree ⟨s.nnodes, hn⟩ T) L' := by
  have hold : ∀ i ∈ q, Function.update tree ⟨s.nnodes, hn⟩ T i = tree i := by
    intro i hi
    refine Function.update_of_ne (fun heq => ?_) _ _
    have hlt := (h.held i (hq hi)).lt
    rw [heq] at hlt
    exact Nat.lt_irrefl _ hlt
  refine ⟨fun i hi => ?_, fun i hi => ?_, ?_, ?_⟩
  · rcases List.mem_append.mp hi with hi | hi
    · rw [hold i hi]; exact (h.held i (hq hi)).set_next hn e
    · obtain rfl := List.mem_singleton.mp hi
      rw [Function.update_self]; exact hT
  · rcases List.mem_append.mp hi with hi | hi
    · rw [hold i hi]; exact h.sums i (hq hi)
    · obtain rfl := List.mem_singleton.mp hi
      rw [Function.update_self]; exact hsums
  · rw [List.flatMap_append, List.flatMap_congr fun i hi => by rw [hold i hi]]
    simpa using hleaves
  · simp only [List.length_append, List.length_cons, List.length_nil]
    omega

/-- Seeding one leaf puts it into the forest (R200, R202, R203). -/
theorem Forest.seedLeaf {tree : NodeIdx → Tree} {L : List (Symbol × Nat)} {x : Symbol × Nat} (h : Forest s tree L)
    (hn : s.nnodes < 513) : ∃ t tree', seedLeaf x s = some t ∧ Forest t tree' (L ++ [x]) ∧ t.nnodes = s.nnodes + 1 := by
  have hleaf : HoldsWithin (s.nnodes + 1) (s.node.set s.nnodes
      { s.nodeAt ⟨s.nnodes, hn⟩ with isLeaf := true, sym := x.1, w := x.2 }) ⟨s.nnodes, hn⟩ (.leaf x.1 x.2) :=
    holdsWithin_leaf (Nat.lt_succ_self _) (Vector.getElem_set_self _) rfl rfl rfl
  refine ⟨_, _, by rw [Machine.seedLeaf, alloc_some hn]; rfl, h.push hn (List.Subset.refl _) hleaf rfl ?_ ?_, rfl⟩
  · exact h.perm.append_right _
  · have := h.room
    simp only [List.length_append, List.length_cons, List.length_nil]
    omega

theorem Forest.seedAll {tree : NodeIdx → Tree} {L l : List (Symbol × Nat)} (h : Forest s tree L)
    (hn : s.nnodes + l.length ≤ 513) : ∃ t tree', seedAll l s = some t ∧ Forest t tree' (L ++ l) := by
  induction l generalizing s tree L with
  | nil => exact ⟨s, tree, rfl, by simpa using h⟩
  | cons x l ih =>
    rw [List.length_cons] at hn
    obtain ⟨u, tree', hu, hforest, hun⟩ := h.seedLeaf (x := x) (by omega)
    obtain ⟨t, tree'', ht, hforest'⟩ := ih hforest (by omega)
    exact ⟨t, tree'', by rw [Machine.seedAll, hu]; exact ht, by simpa using hforest'⟩

theorem extractMin_next (h : s.q ≠ []) : ∃ i ∈ s.q, extractMin s = some (i, { s with q := s.q.erase i }) := by
  cases hi : firstRanked (fun i => (s.nodeAt i).w) s.q with
  | none => exact absurd (firstRanked_eq_none hi) h
  | some i => exact ⟨i, firstRanked_mem hi, by simp only [extractMin, hi]⟩

/-- A merge goes on while Q holds two nodes and the store has an entry left (R207, R211). -/
theorem mergeStep_next (hq : 2 ≤ s.q.length) (hn : s.nnodes < 513) : ∃ t, mergeStep s = .next t := by
  obtain ⟨a, ha, hea⟩ := extractMin_next (s := s) (List.ne_nil_of_length_pos (by omega))
  have hlen := List.length_erase_of_mem ha
  obtain ⟨c, -, hec⟩ := extractMin_next (s := { s with q := s.q.erase a })
    (List.ne_nil_of_length_pos (by simp only; omega))
  exact ⟨_, by simp only [mergeStep, hea, hec, alloc, hn, dif_pos]; rfl⟩

/-- A merge joins two trees of the forest (R205, R209). -/
theorem Forest.mergeStep {tree : NodeIdx → Tree} {L : List (Symbol × Nat)} (h : Forest s tree L)
    (ht : mergeStep s = .next t) : ∃ tree', Forest t tree' L := by
  obtain ⟨a, c, hn, ha, hc, -, -, rfl⟩ := mergeStep_cases ht
  have hcq : c ∈ s.q := List.mem_of_mem_erase hc
  have hperm : s.q.Perm (a :: c :: (s.q.erase a).erase c) :=
    (List.perm_cons_erase ha).trans ((List.perm_cons_erase hc).cons a)
  have hsub : (s.q.erase a).erase c ⊆ s.q := fun i hi => List.mem_of_mem_erase (List.mem_of_mem_erase hi)
  have hwa := holds_weight (h.held a ha).holds
  have hwc := holds_weight (h.held c hcq).holds
  have hnode : HoldsWithin (s.nnodes + 1) (s.node.set s.nnodes (mergedNode s a c)) ⟨s.nnodes, hn⟩
      (.node (mergedNode s a c).w (tree a) (tree c)) :=
    holdsWithin_node (Nat.lt_succ_self _) (Vector.getElem_set_self _) rfl ((h.held a ha).set_next hn _)
      ((h.held c hcq).set_next hn _)
  refine ⟨_, h.push hn hsub hnode ?_ ?_ ?_⟩
  · simp [Tree.sums, mergedNode, State.nodeAt, hwa, hwc, h.sums a ha, h.sums c hcq]
  · have hleaves := (hperm.flatMap_right fun i => (tree i).leaves).symm.trans h.perm
    refine List.Perm.trans ?_ hleaves
    rw [List.flatMap_cons, List.flatMap_cons, ← List.append_assoc]
    exact List.perm_append_comm
  · have := h.room
    have hlen := hperm.length_eq
    simp only [List.length_cons] at hlen
    omega

/-- BUILD's loop ends with one tree, which has all the leaves (R200, R206, R207). -/
theorem Forest.mergeAll {tree : NodeIdx → Tree} {L : List (Symbol × Nat)} (h : Forest s tree L) (hL : L.length ≤ 257)
    (hq : s.q ≠ []) : ∃ t T, mergeAll s.q.length s = .next t ∧ Holds t.node t.root T ∧ T.sums = true ∧
      T.leaves.Perm L := by
  generalize hsize : s.q.length = size
  induction size generalizing s tree with
  | zero => exact absurd (List.length_eq_zero_iff.mp hsize) hq
  | succ size ih =>
    rcases hk : s.q with _ | ⟨r, _ | ⟨i, q⟩⟩
    · exact absurd hk hq
    · have hr : r ∈ s.q := by simp [hk]
      refine ⟨{ s with root := r, q := [] }, tree r, by simp [Machine.mergeAll, hk], (h.held r hr).holds,
        h.sums r hr, ?_⟩
      simpa [hk] using h.perm
    · have hroom := h.room
      have hlen : 2 ≤ s.q.length := by simp [hk]
      obtain ⟨u, hu⟩ := mergeStep_next hlen (by omega)
      obtain ⟨tree', hforest⟩ := h.mergeStep hu
      have hulen := mergeStep_length hu
      obtain ⟨t, T, ht, hT⟩ := ih hforest (List.ne_nil_of_length_pos (by omega)) (by omega)
      refine ⟨t, T, ?_, hT⟩
      rw [← ht, Machine.mergeAll, hk]
      simp [hu]

theorem seedLeaves_eq_countedLeaves (freq : Vector Nat 256) : seedLeaves freq = countedLeaves freq := by
  rw [seedLeaves, countedLeaves, ← List.filterMap_eq_map, List.filterMap_filter]
  simp

/-- BUILD makes a tree of the counted leaves (R200 to R211). -/
theorem build_holds (s : State) : ∃ t T, build s = .next t ∧ Holds t.node t.root T ∧ T.sums = true ∧
    T.leaves.Perm (countedLeaves s.freq) := by
  have hempty : Forest { s with phase := .build, nnodes := 0, q := [] } (fun _ => .leaf sentinel 0) [] :=
    ⟨by simp, by simp, .refl _, rfl⟩
  have hlen := seedLeaves_length s.freq
  have hpos : 0 < (seedLeaves s.freq).length := by simp [seedLeaves]
  obtain ⟨u, tree, hu, hforest⟩ := hempty.seedAll (l := seedLeaves s.freq) (by simp only; omega)
  rw [List.nil_append] at hforest
  have hq : u.q ≠ [] := fun h => by
    have := hforest.perm.length_eq
    rw [h, List.flatMap_nil, List.length_nil] at this
    omega
  obtain ⟨t, T, ht, hT⟩ := hforest.mergeAll hlen hq
  refine ⟨t, T, ?_, seedLeaves_eq_countedLeaves s.freq ▸ hT⟩
  simp [build, startBuild, hu, ht]

/-- The counted symbols are distinct, and they have entries in CODE (R202, R210). -/
theorem countedLeaves_symbols (freq : Vector Nat 256) : ((countedLeaves freq).map Prod.fst).Nodup ∧
    ∀ x ∈ (countedLeaves freq).map Prod.fst, x.toNat ≤ 256 := by
  have hmap : (countedLeaves freq).map Prod.fst =
      ((List.finRange 256).filter (fun b => freq[b.val] > 0)).map (fun b => BitVec.ofNat 9 b.val) ++ [sentinel] := by
    simp [countedLeaves, Function.comp_def]
  have hval : ∀ b : Fin 256, (BitVec.ofNat 9 b.val).toNat = b.val := fun b => by
    rw [BitVec.toNat_ofNat, Nat.mod_eq_of_lt (by omega)]
  have hinj : Function.Injective (fun b : Fin 256 => BitVec.ofNat 9 b.val) := fun b c h => by
    have := congrArg BitVec.toNat h
    exact Fin.ext (by simpa only [hval] using this)
  rw [hmap]
  refine ⟨List.nodup_append.mpr ⟨((List.nodup_finRange 256).filter _).map hinj, by simp, ?_⟩, ?_⟩
  · rintro x hx y hy rfl
    obtain ⟨b, -, hb⟩ := List.mem_map.mp hx
    have h256 := congrArg BitVec.toNat (hb.trans (List.mem_singleton.mp hy))
    simp only [hval] at h256
    exact absurd h256 (Nat.ne_of_lt b.isLt)
  · intro x hx
    rcases List.mem_append.mp hx with hx | hx
    · obtain ⟨b, -, rfl⟩ := List.mem_map.mp hx
      rw [hval]; omega
    · rw [List.mem_singleton.mp hx]; decide

/-! ### COUNT -/

theorem coreStep_of_count (h : s.phase = .count) : coreStep s = countStep s := by
  simp [coreStep, h]

/-- COUNT counts a byte that is read before TOTAL has come to its limit (R180, R182). -/
theorem step_count_byte {b : Byte} {src : List Byte} (h : s.allServed) (hp : s.phase = .count)
    (hin : s.inp.Offers (bitsOf (b :: src))) (ht : s.total ≠ 2 ^ s.wb - 2) :
    step s = .next (countByte b (s.afterRead 8)) := by
  rw [step_of_allServed h, coreStep_of_count hp]
  simp [countStep, inRead_value (draw_of_allServed h) hin.byte_not_exhausted, hin.byte_field, ht]

/-- At the end of the source BUILD and GENCODES follow COUNT in the same step (R12). -/
theorem step_count_end (h : s.allServed) (hp : s.phase = .count) (hin : s.inp.Offers []) :
    step s = andThen (build (s.afterEoi 8)) gencodes := by
  rw [step_of_allServed h, coreStep_of_count hp]
  simp [countStep, inRead_eoi (draw_of_allServed h) (hin.exhausted (n := 8) (by decide))]

theorem countByte_freq_toNat (b c : Byte) (s : State) :
    (countByte b s).freq[c.toNat] = s.freq[c.toNat] + [b].count c := by
  rw [countByte_freq, Vector.getElem_set, List.count_singleton']
  by_cases hbc : b = c
  · simp [hbc]
  · have hne : b.toNat ≠ c.toNat := fun h => hbc (BitVec.eq_of_toNat_eq h)
    simp [hne, hbc]

/-- The first pass over a source that TOTAL has room for counts its bytes (R182, R184). -/
theorem count_source (src : List Byte) (h : s.allServed) (hp : s.phase = .count) (hin : s.inp.Offers (bitsOf src))
    (hroom : s.total + src.length ≤ 2 ^ s.wb - 2) :
    ∃ t, Serves src.length s t ∧ (∀ c : Byte, t.freq[c.toNat] = s.freq[c.toNat] + src.count c) ∧
      t.inp.Offers [] ∧ t = { s with
        freq := t.freq, total := s.total + src.length
        inp := { s.inp with ic := t.inp.ic }, inputs := t.inputs, trace := t.trace } := by
  induction src generalizing s with
  | nil => exact ⟨s, .refl h, by simp, hin, rfl⟩
  | cons b src ih =>
    rw [List.length_cons] at hroom
    have hread := serves_of_step h (step_count_byte h hp hin (by omega))
    obtain ⟨t, ht, hfreq, hend, hframe⟩ := ih hread.turns (by simpa using hp) (by simpa using hin.byte_advance)
      (by simp; omega)
    refine ⟨t, ?_, fun c => ?_, hend, hframe.trans ?_⟩
    · rw [List.length_cons, Nat.add_comm]; exact hread.trans ht
    · rw [hfreq c, countByte_freq_toNat, afterRead_freq, Nat.add_assoc, ← List.count_append, List.singleton_append]
    · rw [List.length_cons, countByte, afterRead_frame, Nat.add_comm src.length, ← Nat.add_assoc]

/-- COUNT's end makes a tree of the counted leaves in the node store, and its codes in CODE (R200 to R211, R230 to
R233). -/
theorem count_end (h : s.allServed) (hp : s.phase = .count) (hin : s.inp.Offers []) :
    ∃ t T, Serves 1 s t ∧ Holds t.node t.root T ∧ T.sums = true ∧ T.leaves.Perm (countedLeaves s.freq) ∧
      CodesAre t.code T.codes ∧ t = { s with
        phase := .wmagic, pending := .top, node := t.node, nnodes := t.nnodes, q := [], root := t.root, code := t.code
        inp := s.inp.afterEoi s.freeIdx, freeIdx := s.freeIdx + 1, inputs := t.inputs, trace := t.trace } := by
  obtain ⟨v, T, hv, hT, hsums, hleaves⟩ := build_holds (s.afterEoi 8)
  rw [afterEoi_freq] at hleaves
  obtain ⟨hnd, hle⟩ := countedLeaves_symbols s.freq
  have hsyms : T.symbols.Perm ((countedLeaves s.freq).map Prod.fst) :=
    symbols_eq_map_leaves T ▸ hleaves.map Prod.fst
  obtain ⟨c, hc, hcodes⟩ := gencodes_holds hT (hsyms.nodup_iff.mpr hnd) fun x hx => hle x (hsyms.mem_iff.mp hx)
  have hstep := step_count_end h hp hin
  rw [hv, andThen_next, hc] at hstep
  obtain ⟨hframe, -⟩ := build_frame hv
  refine ⟨_, T, serves_of_step h hstep (by rw [hframe]; simp) (by rw [hframe]; simp), hT, hsums, hleaves, hcodes,
    ?_⟩
  rw [hframe, afterEoi_frame]

/-! ### WRITE_MAGIC, REWIND and CLOSE -/

/-- WRITE_MAGIC appends MAGIC's 32 bits, and the root is pending in header writing (R264, R250). -/
theorem writeMagic_root (h : s.allServed) (hp : s.phase = .wmagic) (ho : s.out.oc = false) :
    ∃ t, Serves 1 s t ∧ t = { s with
      phase := .wheader, pending := .top, hstack := [pendingNode s.root]
      out := { s.out with ob := s.out.ob ++ bin 32 s.magic.toNat }, inputs := t.inputs, trace := t.trace } := by
  have hs : step s = .next (startWriteHeader (s.afterWrite 32 s.magic.toNat)) := by
    rw [step_of_allServed h, coreStep, hp]
    simp [writeMagicStep, outWrite_ok (n := 32) (by decide) (by decide) ho (draw_of_allServed h)]
  refine ⟨_, serves_of_step h hs, ?_⟩
  rw [startWriteHeader, afterWrite_frame]; rfl

/-- REWIND puts the cursor at the first bit (R281). -/
theorem rewind_source (h : s.allServed) (hp : s.phase = .rewind) :
    ∃ t, Serves 1 s t ∧ t = { s with
      phase := .encode, pending := .top, inp := { s.inp with ic := 0, eoi := false }
      inputs := t.inputs, trace := t.trace } := by
  have hs : step s = .next { s.turn.record (.inReset .ok) with
      phase := .encode, pending := .top, inp := { s.inp with ic := 0, eoi := false } } := by
    rw [step_of_allServed h, coreStep, hp]
    simp [rewindStep, inReset_ok (draw_of_allServed h)]
  refine ⟨_, serves_of_step h hs, ?_⟩
  rw [turn_record_frame]

/-- The output port once it has been closed on `bits` (R78). -/
def OutPort.delivered (bits : List Bool) : OutPort :=
  { ob := padded bits, oc := true, sink := bytesOf (padded bits) }

/-- CLOSE delivers the padded output, and the command has ended (R78, R157). -/
theorem close_output (h : s.allServed) (hp : s.phase = .close) (ho : s.out.oc = false) :
    ∃ t, Serves 1 s t ∧ t = { s with
      status := s.status.completed, op := .noOp, phase := .idle, pending := .top
      out := OutPort.delivered s.out.ob
      inputs := t.inputs, trace := t.trace } := by
  have hs : step s = .next (complete .ok { s.turn.record (.outClose .ok) with out := s.out.closed }) := by
    rw [step_of_allServed h, coreStep, hp]
    simp [closeStep, outClose_ok ho (draw_of_allServed h)]
  refine ⟨_, serves_of_step h hs (by simp [complete]) (by simp [complete]), ?_⟩
  rw [turn_record_frame, closed_of_open ho]; rfl

/-! ### COMPRESS -/

theorem sourceSymbols_eq_map (src : List Byte) : sourceSymbols src = (sourceLeaves src).map Prod.fst := by
  simp [sourceSymbols, sourceLeaves, Function.comp_def]

/-- The root of a source's tree weighs one more than the source is long (R209). -/
theorem sourceLeaves_sum (src : List Byte) : ((sourceLeaves src).map Prod.snd).sum = src.length + 1 := by
  have hcount := List.sum_map_count_dedup_eq_length src
  simp only [sourceLeaves, List.map_append, List.sum_append, List.map_map, Function.comp_def, hcount]
  rfl

/-- The leaves that the counts of a source give are the source's leaves (R202, R203). -/
theorem countedLeaves_perm {freq : Vector Nat 256} {src : List Byte} (h : ∀ c : Byte, freq[c.toNat] = src.count c) :
    (countedLeaves freq).Perm (sourceLeaves src) := by
  have hfin : ∀ b : Fin 256, freq[b.val] = src.count (BitVec.ofFin b) := fun b => h (BitVec.ofFin b)
  have hinj : Function.Injective (BitVec.ofFin : Fin (2 ^ 8) → Byte) := fun _ _ => congrArg BitVec.toFin
  have hbytes :
      (((List.finRange 256).filter (fun b => freq[b.val] > 0)).map (BitVec.ofFin (w := 8))).Perm src.dedup := by
    refine (List.perm_ext_iff_of_nodup (((List.nodup_finRange 256).filter _).map hinj) (List.nodup_dedup src)).mpr ?_
    intro c
    simp only [List.mem_map, List.mem_filter, List.mem_finRange, true_and, decide_eq_true_eq, hfin, List.mem_dedup,
      gt_iff_lt, List.count_pos_iff]
    exact ⟨fun ⟨b, hb, hc⟩ => hc ▸ hb, fun hc => ⟨c.toFin, hc, rfl⟩⟩
  have hmap := hbytes.map fun b => (b.setWidth 9, src.count b)
  rw [List.map_map] at hmap
  refine List.Perm.append_right _ (List.Perm.trans (.of_eq (List.map_congr_left fun b _ => ?_)) hmap)
  exact Prod.ext (BitVec.eq_of_toNat_eq (by simp)) (hfin b)

theorem code_len_ne_zero {T : Tree} {table : Vector CodeEntry 257} {k : Fin 257} (h : CodesAre table T.codes)
    (hk : indexSymbol k ∈ T.symbols) : (table[k.val]).len ≠ 0 := by
  obtain ⟨hcoded, -⟩ := h
  obtain ⟨p, hm, hp⟩ := exists_code hk
  intro hlen
  refine hp ((hcoded k p hm).symm.trans ?_)
  rw [CodeEntry.bitString, hlen]; rfl

/-- Everything a source needs has a code in the table of its tree (R210, R236). -/
theorem source_has_codes {T : Tree} {table : Vector CodeEntry 257} {src : List Byte} (h : CodesAre table T.codes)
    (hs : T.symbols.Perm (sourceSymbols src)) :
    (∀ b ∈ src, (table[(byteIndex b).val]).len ≠ 0) ∧ (table[sentinelIndex.val]).len ≠ 0 := by
  refine ⟨fun b hb => code_len_ne_zero h (hs.mem_iff.mpr ?_), code_len_ne_zero h (hs.mem_iff.mpr ?_)⟩
  · have hsym : b.setWidth 9 = indexSymbol (byteIndex b) := by
      apply BitVec.eq_of_toNat_eq
      rw [indexSymbol_toNat, BitVec.toNat_setWidth_of_le (by decide)]
      rfl
    exact List.mem_append_left _ (List.mem_map.mpr ⟨b, List.mem_dedup.mpr hb, hsym⟩)
  · exact List.mem_append_right _ (List.mem_singleton.mpr rfl)

/-- The acceptance of a launched COMPRESS (R150, R152). -/
theorem launch_compress {src : List Byte} (h : Launch s 1#32 src) :
    ∃ u, step s = .next u ∧ u.allServed ∧ u = { s with
      status := Status.accepted, errinfo := 0#32, op := .compress, phase := .count, pending := .top
      freq := Vector.replicate 256 0, total := 0, out := { s.out with ob := [] }, inputs := u.inputs
      trace := [] } := by
  obtain ⟨rest, hinputs, hrest⟩ := h.write
  have hbusy : s.status.busy = false := h.inv.idle_iff.mp h.idle
  refine ⟨startCount (accept .compress { s with inputs := rest }), ?_, hrest, rfl⟩
  rw [step_of_hostTurn hinputs]
  simp [hostStep, decodeCommand, exec, execCompress, launch, hbusy, h.distinct, h.opened, h.source, InPort.atStart]

/-- COMPRESS up to its first write: the source's tree is in the node store, and its codes are in CODE. -/
theorem compress_first_pass {src : List Byte} (h : s.allServed) (hp : s.phase = .count)
    (hin : s.inp.Offers (bitsOf src)) (hfreq : s.freq = Vector.replicate 256 0) (htotal : s.total = 0)
    (hlen : src.length ≤ 2 ^ s.wb - 2) :
    ∃ t T, Serves (src.length + 1) s t ∧ Holds t.node t.root T ∧ T.sums = true ∧ T.leaves.Perm (sourceLeaves src) ∧
      CodesAre t.code T.codes ∧ t.inp.src = s.inp.src ∧ t = { s with
        phase := .wmagic, pending := .top, freq := t.freq, total := t.total, node := t.node, nnodes := t.nnodes
        q := t.q, root := t.root, code := t.code, inp := t.inp, freeIdx := t.freeIdx, inputs := t.inputs
        trace := t.trace } := by
  obtain ⟨u, hu, hcount, hend, huf⟩ := count_source src h hp hin (by omega)
  obtain ⟨t, T, ht, hT, hsums, hleaves, hcodes, htf⟩ := count_end hu.turns (by rw [huf]; exact hp) hend
  have hfreq : ∀ c : Byte, u.freq[c.toNat] = src.count c := fun c => by simp [hcount, hfreq]
  refine ⟨t, T, hu.trans ht, hT, hsums, hleaves.trans (countedLeaves_perm hfreq), hcodes, ?_, htf.trans ?_⟩
  · rw [htf, huf]; rfl
  · rw [htf, huf]

/-- COMPRESS from its first write on: the artifact is delivered, and the command ends (R114, R153). -/
theorem compress_second_pass {T : Tree} (h : s.allServed) (hp : s.phase = .wmagic) (ho : s.out.oc = false)
    (hT : Holds s.node s.root T) (hc : ∀ b ∈ s.inp.src, (s.code[(byteIndex b).val]).len ≠ 0)
    (hsent : (s.code[sentinelIndex.val]).len ≠ 0) :
    ∃ t, Serves (2 * s.inp.src.length + 3 * T.symbols.length + 4) s t ∧ t = { s with
      status := s.status.completed, op := .noOp, phase := .idle, pending := .top, hstack := []
      out := OutPort.delivered (s.out.ob ++ bin 32 s.magic.toNat ++ T.header ++ payload s.code s.inp.src)
      inp := t.inp, freeIdx := t.freeIdx, inputs := t.inputs, trace := t.trace } := by
  obtain ⟨s1, h1, f1⟩ := writeMagic_root h hp ho
  obtain ⟨s2, h2, f2⟩ := writeHeader_root (T := T) h1.turns (by rw [f1]) (by rw [f1]) (by rw [f1])
    (by rw [f1]; exact ho) (by rw [f1]; exact hT)
  obtain ⟨s3, h3, f3⟩ := rewind_source h2.turns (by rw [f2])
  have hs3 : s3 = { s with
      phase := .encode, pending := .top, hstack := [], inp := { src := s.inp.src, ic := 0, eoi := false }
      out := { s.out with ob := s.out.ob ++ bin 32 s.magic.toNat ++ T.header }, inputs := s3.inputs
      trace := s3.trace } := by
    refine f3.trans ?_
    rw [f2, f1]
  obtain ⟨s4, h4, -, f4⟩ := encode_source s.inp.src h3.turns (by rw [hs3]) (by rw [hs3])
    (by rw [hs3]; exact offers_source s.inp.src) (by rw [hs3]; exact ho) (by rw [hs3]; exact hc)
    (by rw [hs3]; exact hsent)
  obtain ⟨t, h5, f5⟩ := close_output h4.turns (by rw [f4]) (by rw [f4, hs3]; exact ho)
  refine ⟨t, ?_, f5.trans ?_⟩
  · have hpos := symbols_length_pos T
    have hk : 2 * s.inp.src.length + 3 * T.symbols.length + 4 =
        1 + (3 * T.symbols.length - 1) + 1 + (2 * s.inp.src.length + 2) + 1 := by omega
    exact hk ▸ (((h1.trans h2).trans h3).trans h4).trans h5
  · have hinp : t.inp = s4.inp := by rw [f5]
    have hfree : t.freeIdx = s4.freeIdx := by rw [f5]
    rw [hinp, hfree, f4, hs3]

/-- Settles O57: the acceptance, the first pass, and the writes of the command (`compress_second_pass`). -/
theorem compressWritesTheArtifact : Obligations.CompressWritesTheArtifact := by
  unfold Obligations.CompressWritesTheArtifact
  intro s src hlaunch hlen
  obtain ⟨u, hstep, hu, fu⟩ := launch_compress hlaunch
  obtain ⟨v, T, hv, hT, hsums, hleaves, hcodes, hsrc, fv⟩ := compress_first_pass (src := src) hu (by rw [fu])
    (by rw [fu]; exact hlaunch.source ▸ offers_source src) (by rw [fu]) (by rw [fu]) (by rw [fu]; exact hlen)
  have hsyms : T.symbols.Perm (sourceSymbols src) := by
    rw [symbols_eq_map_leaves, sourceSymbols_eq_map]
    exact hleaves.map Prod.fst
  have hvsrc : v.inp.src = src := by rw [hsrc, fu]; exact congrArg InPort.src hlaunch.source
  obtain ⟨hc, hsent⟩ := source_has_codes hcodes hsyms
  obtain ⟨t, ht, ft⟩ := compress_second_pass hv.turns (by rw [fv]) (by rw [fv, fu]; exact hlaunch.opened) hT
    (hvsrc ▸ hc) hsent
  have hrun := hv.trans ht
  have hout : t.out = OutPort.delivered (bin 32 s.magic.toNat ++ T.header ++ payload t.code src) := by
    rw [ft, hvsrc, fv, fu]; simp
  have hstatus : t.status = Status.accepted.completed := by rw [ft, fv, fu]
  refine ⟨t, T, ⟨_, (runs_succ _ hstep).trans hrun.runs⟩, by rw [ft], ?status, ?errinfo, ?tree, hsums, ?weight,
    hleaves, hsyms, ?codes, by rw [hout]; rfl, ?sink, ?trace⟩
  case status => rw [hstatus]; decide
  case errinfo => rw [ft, fv, fu]
  case tree => rw [ft]; exact hT
  case weight => rw [weight_eq_sum_leaves hsums, (hleaves.map Prod.snd).sum_eq, sourceLeaves_sum]
  case codes => rw [ft]; exact hcodes
  case sink => rw [hout]; exact bitsOf_bytesOf_padded _
  case trace =>
    rw [hrun.trace, hvsrc, fu, List.length_nil]
    omega

end Sys2Proof.Machine

/-! ## DECOMPRESS: the tree of a header, the bytes of a payload, and the source of an artifact -/
namespace Sys2Proof.Machine

variable {s t u : State}

/-! ### Acceptance and READ_MAGIC -/

/-- The acceptance of a ready machine's DECOMPRESS (R150, R154). -/
theorem launch_decompress (h : Ready s 2#32) :
    ∃ u, step s = .next u ∧ u.allServed ∧ u = { s with
      status := Status.accepted, errinfo := 0#32, op := .decompress, phase := .rmagic, pending := .top
      out := { s.out with ob := [] }, inputs := u.inputs, trace := [] } := by
  obtain ⟨rest, hinputs, hrest⟩ := h.write
  have hbusy : s.status.busy = false := h.inv.idle_iff.mp h.idle
  refine ⟨startReadMagic (accept .decompress { s with inputs := rest }), ?_, hrest, rfl⟩
  rw [step_of_hostTurn hinputs]
  simp [hostStep, decodeCommand, exec, execDecompress, launch, hbusy, h.distinct, h.opened]

theorem coreStep_of_rmagic (h : s.phase = .rmagic) : coreStep s = readMagicStep s := by
  simp [coreStep, h]

/-- READ_MAGIC of an input that goes on with MAGIC: header reading starts with an empty node store (R265, R254). -/
theorem readMagic_match {more : List Bool} (h : s.allServed) (hp : s.phase = .rmagic)
    (hin : s.inp.Offers (bin 32 s.magic.toNat ++ more)) :
    ∃ t, Serves 1 s t ∧ t = { s with
      phase := .rheader, pending := .top, nnodes := 0, hstack := [], inp := { s.inp with ic := s.inp.ic + 32 }
      inputs := t.inputs, trace := t.trace } := by
  have hx : s.inp.exhausted 32 = false := by
    simpa using hin.not_exhausted (List.ne_nil_of_length_pos (by simp))
  have hv : s.inp.field 32 = s.magic.toNat := by
    simpa [val_bin_of_lt s.magic.isLt] using hin.field
  have hs : step s = .next (startReadHeader (s.afterRead 32)) := by
    rw [step_of_allServed h, coreStep_of_rmagic hp]
    simp [readMagicStep, inRead_value (draw_of_allServed h) hx, hv]
  refine ⟨_, serves_of_step h hs, ?_⟩
  rw [startReadHeader, afterRead_frame]

/-! ### READ_HEADER -/

/-- The node store holds a tree at an index, in entries from `lo` to below `hi`: so does every store with those entries. -/
def HoldsBetween (lo hi : Nat) (store : Vector NodeEntry 513) (i : NodeIdx) (T : Tree) : Prop :=
  ∀ store' : Vector NodeEntry 513, (∀ j : NodeIdx, lo ≤ j.val → j.val < hi → store'[j.val] = store[j.val]) →
    Holds store' i T

theorem HoldsBetween.holds {lo hi : Nat} {store : Vector NodeEntry 513} {i : NodeIdx} {T : Tree}
    (h : HoldsBetween lo hi store i T) : Holds store i T :=
  h store fun _ _ _ => rfl

/-- The decoder's answer to a LEAF flag alone is that its symbol is missing, so the symbol is read next (R125). -/
theorem runToken_flag (s : State) : runToken [true] s = .next { s with pending := .symField } := rfl

theorem InPort.Offers.take {p : InPort} {bits more : List Bool} (h : p.Offers (bits ++ more)) :
    p.ahead.take bits.length = bits := by
  rw [h.ahead, List.take_left]

theorem step_rheader_flag {b : Bool} {more : List Bool} (h : s.allServed) (hp : s.phase = .rheader)
    (hpe : s.pending = .top) (hin : s.inp.Offers (b :: more)) : step s = runToken [b] (s.afterRead 1) := by
  have hx : s.inp.exhausted 1 = false := InPort.Offers.not_exhausted (bits := [b]) hin (by simp)
  have htake : s.inp.ahead.take 1 = [b] := InPort.Offers.take (bits := [b]) hin
  rw [step_of_allServed h, coreStep_of_rheader hp, readHeaderStep_of_top hpe, readFlag_value (draw_of_allServed h) hx,
    htake]

theorem step_rheader_symbol {sym : Symbol} {more : List Bool} (h : s.allServed) (hp : s.phase = .rheader)
    (hpe : s.pending = .symField) (hin : s.inp.Offers (bin 9 sym.toNat ++ more)) :
    step s = exec (.leaf sym) (s.afterRead 9) := by
  have hx : s.inp.exhausted 9 = false := by
    simpa using hin.not_exhausted (List.ne_nil_of_length_pos (by simp))
  have htake : s.inp.ahead.take 9 = bin 9 sym.toNat := by simpa using hin.take
  have hdec := decode_leaf_append sym []
  rw [List.append_nil] at hdec
  rw [step_of_allServed h, coreStep_of_rheader hp, readHeaderStep_of_symField hpe,
    readSymbol_value (draw_of_allServed h) hx, htake]
  exact runToken_of_decode hdec _

@[simp] theorem deliver_inputs (i : NodeIdx) (fs : List Frame) (s : State) : (deliver i fs s).inputs = s.inputs := by
  rw [deliver_frame]

/-- The next entry is the one an allocation answers (R200). -/
theorem alloc_next {i : NodeIdx} (hi : i.val = s.nnodes) : alloc s = some (i, { s with nnodes := s.nnodes + 1 }) := by
  have hn : s.nnodes < 513 := hi ▸ i.isLt
  rw [alloc_some hn]
  exact congrArg (fun j => some (j, _)) (Fin.ext hi.symm)

theorem exec_leaf_read {sym : Symbol} {i : NodeIdx} (hp : s.phase = .rheader) (hi : i.val = s.nnodes) :
    exec (.leaf sym) s = .next (deliver i s.hstack (State.setLeaf { s with nnodes := s.nnodes + 1 } i sym 0)) := by
  rw [exec, execLeaf_of_rheader hp, readLeafToken, alloc_next hi]

theorem exec_node_read {i : NodeIdx} (hp : s.phase = .rheader) (hi : i.val = s.nnodes) :
    exec .node s = .next { s.setNode i { s.nodeAt i with isLeaf := false, sym := 0#9, w := 0 } with
      nnodes := s.nnodes + 1, hstack := pendingNode i :: s.hstack, pending := .top } := by
  rw [exec, execNode_of_rheader hp, readNodeToken, alloc_next hi]
  rfl

/-- A header's NODE token is read: entry NNODES is an internal node that waits for its left subtree (R255). -/
theorem readHeader_node {more : List Bool} {i : NodeIdx} (h : s.allServed) (hp : s.phase = .rheader)
    (hpe : s.pending = .top) (hin : s.inp.Offers (false :: more)) (hi : i.val = s.nnodes) :
    ∃ t e, Serves 1 s t ∧ e.isLeaf = false ∧ e.w = 0 ∧ t = { s.setNode i e with
      nnodes := s.nnodes + 1, hstack := pendingNode i :: s.hstack
      inp := { s.inp with ic := s.inp.ic + 1 }, inputs := t.inputs, trace := t.trace } := by
  have hs := step_rheader_flag h hp hpe hin
  rw [runToken_of_decode (i := .node) (rest := []) rfl, exec_node_read (by simpa using hp) (by simpa using hi)] at hs
  refine ⟨_, { s.nodeAt i with isLeaf := false, sym := 0#9, w := 0 }, serves_of_step h hs, rfl, rfl, ?_⟩
  rw [afterRead_frame, ← hpe]; rfl

/-- A header's LEAF flag is read: the symbol is next (R254). -/
theorem readHeader_flag {more : List Bool} (h : s.allServed) (hp : s.phase = .rheader)
    (hpe : s.pending = .top) (hin : s.inp.Offers (true :: more)) :
    ∃ t, Serves 1 s t ∧ t = { s with
      pending := .symField, inp := { s.inp with ic := s.inp.ic + 1 }, inputs := t.inputs, trace := t.trace } := by
  have hs := step_rheader_flag h hp hpe hin
  rw [runToken_flag] at hs
  refine ⟨_, serves_of_step h hs, ?_⟩
  rw [afterRead_frame]

/-- The symbol after a LEAF flag is read: entry NNODES is a leaf, and it is delivered (R256). -/
theorem readHeader_symbol {sym : Symbol} {more : List Bool} {i : NodeIdx} (h : s.allServed) (hp : s.phase = .rheader)
    (hpe : s.pending = .symField) (hin : s.inp.Offers (bin 9 sym.toNat ++ more)) (hi : i.val = s.nnodes) :
    ∃ v e, Serves 1 s (deliver i s.hstack v) ∧ e.isLeaf = true ∧ e.sym = sym ∧ e.w = 0 ∧ v = { s.setNode i e with
      nnodes := s.nnodes + 1
      inp := { s.inp with ic := s.inp.ic + 9 }, inputs := v.inputs, trace := v.trace } := by
  have hs := step_rheader_symbol h hp hpe hin
  rw [exec_leaf_read (by simpa using hp) (by simpa using hi), afterRead_hstack] at hs
  refine ⟨_, { s.nodeAt i with isLeaf := true, sym := sym, w := 0 }, serves_of_step h hs (by simp)
    (by simp [deliver_trace]), rfl, rfl, rfl, ?_⟩
  rw [afterRead_frame]; rfl

/-- What READ_HEADER of a subtree `T` leaves, before its root `i` is delivered: the subtree is in the entries from NNODES
on, those below are as they were, and the cursor stands behind its header (R254 to R256). -/
structure SubtreeRead (T : Tree) (s : State) (i : NodeIdx) (v : State) : Prop where
  held : HoldsBetween s.nnodes v.nnodes v.node i T.unweighted
  below : ∀ j : NodeIdx, j.val < s.nnodes → v.node[j.val] = s.node[j.val]
  frame : v = { s with
    pending := v.pending, hstack := v.hstack, nnodes := s.nnodes + T.size, node := v.node
    inp := { s.inp with ic := s.inp.ic + T.header.length }, inputs := v.inputs, trace := v.trace }

theorem readHeader_leaf {sym : Symbol} {w : Nat} {more : List Bool} {i : NodeIdx} (h : s.allServed)
    (hp : s.phase = .rheader) (hpe : s.pending = .top) (hin : s.inp.Offers (encode (.leaf sym) ++ more))
    (hi : i.val = s.nnodes) :
    ∃ v, Serves 2 s (deliver i s.hstack v) ∧ SubtreeRead (.leaf sym w) s i v := by
  obtain ⟨u, hu, huf⟩ := readHeader_flag h hp hpe hin
  have hmore : u.inp.Offers (bin 9 sym.toNat ++ more) := by
    rw [huf]; exact InPort.Offers.advance (bits := [true]) hin
  obtain ⟨v, e, hv, hl, hsym, hw, hvf⟩ := readHeader_symbol hu.turns (by rw [huf]; exact hp) (by rw [huf]) hmore
    (by rw [huf]; exact hi)
  have hnode : v.node = (s.setNode i e).node := by rw [hvf, huf]; rfl
  have hk : u.hstack = s.hstack := by rw [huf]
  refine ⟨v, hu.trans (hk ▸ hv), fun store heq => ?_, fun j hj => ?_, hvf.trans ?_⟩
  · have hn : v.nnodes = s.nnodes + 1 := by rw [hvf, huf]
    rw [Tree.unweighted, Holds, heq i hi.ge (by omega), hnode, setNode_node, Vector.getElem_set_self]
    exact ⟨hl, hsym, hw⟩
  · rw [hnode, setNode_node, Vector.getElem_set_ne _ _ (by omega)]
  · have hlen : (Tree.leaf sym w).header.length = 1 + 9 := by simp [Tree.header, encode]
    rw [hnode, hlen, hvf, huf]
    simp only [Nat.add_assoc, Tree.size]
    rfl

/-- A node that waits for its left subtree takes it, and waits for the right one (R254). -/
def leftDelivered (j i : NodeIdx) (fs : List Frame) (s : State) : State :=
  { s.setNode j { s.nodeAt j with l := i } with hstack := { node := j, side := true } :: fs, pending := .top }

/-- A node that waits for its right subtree takes it (R254). -/
def rightDelivered (j i : NodeIdx) (s : State) : State :=
  s.setNode j { s.nodeAt j with r := i }

theorem deliver_left (i j : NodeIdx) (fs : List Frame) (s : State) :
    deliver i (pendingNode j :: fs) s = leftDelivered j i fs s := rfl

theorem deliver_right (i j : NodeIdx) (fs : List Frame) (s : State) :
    deliver i ({ node := j, side := true } :: fs) s = deliver j fs (rightDelivered j i s) := rfl

theorem leftDelivered_other {i j m : NodeIdx} {fs : List Frame} (h : m ≠ j) :
    (leftDelivered j i fs s).node[m.val] = s.node[m.val] :=
  setNode_nodeAt_other h

theorem leftDelivered_same (i j : NodeIdx) (fs : List Frame) (s : State) :
    (leftDelivered j i fs s).node[j.val] = { s.nodeAt j with l := i } :=
  setNode_nodeAt_same s j _

theorem rightDelivered_other {i j m : NodeIdx} (h : m ≠ j) : (rightDelivered j i s).node[m.val] = s.node[m.val] :=
  setNode_nodeAt_other h

theorem rightDelivered_same (i j : NodeIdx) (s : State) :
    (rightDelivered j i s).node[j.val] = { s.nodeAt j with r := i } :=
  setNode_nodeAt_same s j _

theorem unweighted_paths (T : Tree) : T.unweighted.paths = T.paths := by
  induction T with
  | leaf sym w => rfl
  | node w l r ihl ihr => simp [Tree.unweighted, Tree.paths, ihl, ihr]

theorem unweighted_codes (T : Tree) : T.unweighted.codes = T.codes := by
  cases T with
  | leaf sym w => rfl
  | node w l r => exact unweighted_paths (.node w l r)

/-- A node's entry is written, then its two subtrees are read, and the node takes them: its own subtree is read. -/
theorem SubtreeRead.node {l r : Tree} {w : Nat} {v v' : State} {e : NodeEntry} {j il ir : NodeIdx}
    (hj : j.val = s.nnodes) (hleaf : e.isLeaf = false) (hw : e.w = 0)
    (hu : u = { s.setNode j e with
      nnodes := s.nnodes + 1, hstack := pendingNode j :: s.hstack
      inp := { s.inp with ic := s.inp.ic + 1 }, inputs := u.inputs, trace := u.trace })
    (hl : SubtreeRead l u il v) (hr : SubtreeRead r (leftDelivered j il s.hstack v) ir v') :
    SubtreeRead (.node w l r) s j (rightDelivered j ir v') := by
  have hun : u.nnodes = s.nnodes + 1 := by rw [hu]
  have hvn : v.nnodes = u.nnodes + l.size := by rw [hl.frame]
  have hxn : (leftDelivered j il s.hstack v).nnodes = v.nnodes := rfl
  have hvn' : v'.nnodes = v.nnodes + r.size := by rw [hr.frame]; rfl
  have hrn : (rightDelivered j ir v').nnodes = v'.nnodes := rfl
  have hother : ∀ m : NodeIdx, m ≠ j → m.val < v.nnodes → (rightDelivered j ir v').node[m.val] = v.node[m.val] :=
    fun m hm hlt => ((rightDelivered_other hm).trans (hr.below m hlt)).trans (leftDelivered_other hm)
  have hve : v.nodeAt j = e := by
    rw [State.nodeAt, hl.below j (by omega), hu]
    exact setNode_nodeAt_same s j e
  have hentry : (rightDelivered j ir v').node[j.val] = { e with l := il, r := ir } := by
    rw [rightDelivered_same, State.nodeAt, hr.below j (by omega), leftDelivered_same, hve]
  refine ⟨fun store heq => ?held, fun m hm => ?below, ?frame⟩
  case held =>
    rw [Tree.unweighted, Holds, heq j hj.ge (by omega), hentry]
    refine ⟨hleaf, hw, hl.held store fun m hlo hhi => ?_, hr.held store fun m hlo hhi => ?_⟩
    · rw [heq m (by omega) (by omega)]
      exact hother m (by rintro rfl; omega) (by omega)
    · rw [heq m (by omega) (by omega)]
      exact rightDelivered_other (by rintro rfl; omega)
  case below =>
    have hne : m ≠ j := by rintro rfl; omega
    rw [hother m hne (by omega), hl.below m (by omega), hu]
    exact setNode_nodeAt_other hne
  case frame =>
    have hlen : s.inp.ic + 1 + l.header.length + r.header.length = s.inp.ic + (Tree.node w l r).header.length := by
      simp [Tree.header, encode]; omega
    have hsize : s.nnodes + 1 + l.size + r.size = s.nnodes + (Tree.node w l r).size := by
      rw [Tree.size]; omega
    refine (congrArg (rightDelivered j ir) hr.frame).trans ?_
    rw [← hlen, ← hsize, hl.frame, hu]
    rfl

/-- READ_HEADER reads a subtree and delivers its root (R254 to R256), by induction on the subtree. -/
theorem readHeader_subtree {T : Tree} {more : List Bool} (h : s.allServed) (hp : s.phase = .rheader)
    (hpe : s.pending = .top) (hin : s.inp.Offers (T.header ++ more)) (hroom : s.nnodes + T.size ≤ 513) :
    ∃ k v i, Serves k s (deliver i s.hstack v) ∧ SubtreeRead T s i v := by
  induction T generalizing s more with
  | leaf sym w =>
    obtain ⟨v, hv, hread⟩ := readHeader_leaf (i := ⟨s.nnodes, hroom⟩) h hp hpe hin rfl
    exact ⟨2, v, _, hv, hread⟩
  | node w l r ihl ihr =>
    rw [Tree.size] at hroom
    have hin : s.inp.Offers (false :: (l.header ++ (r.header ++ more))) := by
      simpa [Tree.header, encode] using hin
    have hafter := InPort.Offers.advance (bits := [false]) hin
    obtain ⟨u, e, hu, hleaf, hw, huf⟩ := readHeader_node (i := ⟨s.nnodes, by omega⟩) h hp hpe hin rfl
    generalize hj : (⟨s.nnodes, by omega⟩ : NodeIdx) = j at huf
    have hun : u.nnodes = s.nnodes + 1 := by rw [huf]
    have huk : u.hstack = pendingNode j :: s.hstack := by rw [huf]
    obtain ⟨k, v, il, hv, hl⟩ := ihl (more := r.header ++ more) hu.turns (by rw [huf]; exact hp)
      (by rw [huf]; exact hpe) (by rw [huf]; exact hafter) (by omega)
    rw [huk, deliver_left] at hv
    have hvn : v.nnodes = u.nnodes + l.size := by rw [hl.frame]
    obtain ⟨k', v', ir, hv', hr⟩ := ihr (s := leftDelivered j il s.hstack v) (more := more) hv.turns
      (show v.phase = _ by rw [hl.frame, huf]; exact hp) rfl
      (show v.inp.Offers _ by rw [hl.frame, huf]; exact hafter.advance) (show v.nnodes + _ ≤ _ by omega)
    exact ⟨_, _, j, (hu.trans hv).trans hv', SubtreeRead.node (by rw [← hj]) hleaf hw huf hl hr⟩

/-- READ_HEADER of an input that goes on with the header of a tree leaves that tree, with every weight 0, in the node store,
and DECODE starts at its root (R254 to R256, R260, R261). -/
theorem readHeader_root {T : Tree} {more : List Bool} (h : s.allServed) (hp : s.phase = .rheader)
    (hpe : s.pending = .top) (hk : s.hstack = []) (hn : s.nnodes = 0) (hin : s.inp.Offers (T.header ++ more))
    (hsize : T.size ≤ 513) :
    ∃ k t, Serves k s t ∧ Holds t.node t.root T.unweighted ∧ t = { s with
      phase := .decode, pending := .top, node := t.node, nnodes := T.size, hstack := [], root := t.root, cur := t.root
      inp := { s.inp with ic := s.inp.ic + T.header.length }, inputs := t.inputs, trace := t.trace } := by
  obtain ⟨k, v, i, hv, hread⟩ := readHeader_subtree h hp hpe hin (by omega)
  rw [hk] at hv
  refine ⟨k, _, hv, hread.held.holds, ?_⟩
  simp only [deliver, startDecode]
  rw [hread.frame, hn, Nat.zero_add]

/-! ### DECODE -/

/-- DECODE's write of a literal, and back to the root (R285, R289). -/
theorem decode_literal {b : Byte} (h : s.allServed) (hp : s.phase = .decode) (hpe : s.pending = .literal b)
    (ho : s.out.oc = false) :
    ∃ t, Serves 1 s t ∧ t = { s with
      pending := .top, cur := s.root, out := { s.out with ob := s.out.ob ++ bin 8 b.toNat }
      inputs := t.inputs, trace := t.trace } := by
  have hs : step s = .next { s.afterWrite 8 b.toNat with cur := s.root, pending := .top } := by
    rw [step_of_allServed h, coreStep_of_decode hp]
    simp [decodeStep, hpe, decodeWrite, outWrite_ok (n := 8) (by decide) (by decide) ho (draw_of_allServed h)]
  refine ⟨_, serves_of_step h hs, ?_⟩
  rw [afterWrite_frame]

/-- DECODE of a byte's code: the byte is appended, and the walk starts again at the root (R285 to R289). -/
theorem decode_byte {T : Tree} {b : Byte} {p more : List Bool} (h : s.allServed) (hp : s.phase = .decode)
    (hpe : s.pending = .top) (hcur : s.cur = s.root) (hT : Holds s.node s.root T) (ho : s.out.oc = false)
    (hm : (b.setWidth 9, p) ∈ T.codes) (hin : s.inp.Offers (p ++ more)) :
    ∃ k t, Serves k s t ∧ t = { s with
      inp := { s.inp with ic := s.inp.ic + p.length }, out := { s.out with ob := s.out.ob ++ bin 8 b.toNat }
      inputs := t.inputs, trace := t.trace } := by
  obtain ⟨i, u, hu, hl, hsym, huf⟩ := decode_code h hp hpe (hcur ▸ hT) hm hin
  have hnode : u.nodeAt i = s.nodeAt i := by rw [huf]; rfl
  rw [← hnode] at hl hsym
  have hbyte : (u.nodeAt i).sym.toNat = b.toNat := by rw [hsym, BitVec.toNat_setWidth_of_le (by decide)]
  have hlit : ((u.nodeAt i).sym.setWidth 8 : Byte) = b := by
    rw [hsym, BitVec.setWidth_setWidth_of_le _ (by decide), BitVec.setWidth_eq]
  rw [reach_literal hl (by have := b.isLt; omega), hlit] at hu
  obtain ⟨t, ht, htf⟩ := decode_literal hu.turns (by rw [huf]; exact hp) rfl (by rw [huf]; exact ho)
  refine ⟨_, t, hu.trans ht, htf.trans ?_⟩
  rw [huf, ← hcur, ← hpe]

/-- DECODE of the sentinel's code: CLOSE is next (R288). -/
theorem decode_sentinel {T : Tree} {p more : List Bool} (h : s.allServed) (hp : s.phase = .decode)
    (hpe : s.pending = .top) (hcur : s.cur = s.root) (hT : Holds s.node s.root T)
    (hm : (sentinel, p) ∈ T.codes) (hin : s.inp.Offers (p ++ more)) :
    ∃ k t, Serves k s t ∧ t = { s with
      phase := .close, pending := .top, cur := t.cur, inp := t.inp, inputs := t.inputs, trace := t.trace } := by
  obtain ⟨i, u, hu, hl, hsym, huf⟩ := decode_code h hp hpe (hcur ▸ hT) hm hin
  have hnode : u.nodeAt i = s.nodeAt i := by rw [huf]; rfl
  rw [← hnode] at hl hsym
  rw [reach_sentinel hl (by rw [hsym]; rfl)] at hu
  refine ⟨_, _, hu, ?_⟩
  rw [huf]

/-- DECODE of a payload delivers the bytes that it encodes (R121, R285 to R289), by induction on them. -/
theorem decode_payload {T : Tree} {table : Vector CodeEntry 257} (src : List Byte) {more : List Bool} (h : s.allServed)
    (hp : s.phase = .decode) (hpe : s.pending = .top) (hcur : s.cur = s.root) (hT : Holds s.node s.root T)
    (ho : s.out.oc = false) (hc : ∀ b ∈ src, (b.setWidth 9, (table[(byteIndex b).val]).bitString) ∈ T.codes)
    (hsent : (sentinel, (table[sentinelIndex.val]).bitString) ∈ T.codes)
    (hin : s.inp.Offers (payload table src ++ more)) :
    ∃ k t, Serves k s t ∧ t = { s with
      phase := .close, pending := .top, cur := t.cur, out := { s.out with ob := s.out.ob ++ bitsOf src }
      inp := t.inp, inputs := t.inputs, trace := t.trace } := by
  induction src generalizing s with
  | nil =>
    obtain ⟨k, t, ht, htf⟩ := decode_sentinel h hp hpe hcur hT hsent hin
    exact ⟨k, t, ht, htf.trans (by rw [bitsOf, List.append_nil])⟩
  | cons b src ih =>
    have hin : s.inp.Offers ((table[(byteIndex b).val]).bitString ++ (payload table src ++ more)) := by
      simpa [payload] using hin
    obtain ⟨k, u, hu, huf⟩ := decode_byte h hp hpe hcur hT ho (hc b List.mem_cons_self) hin
    obtain ⟨k', t, ht, htf⟩ := ih hu.turns (by rw [huf]; exact hp) (by rw [huf]; exact hpe) (by rw [huf]; exact hcur)
      (by rw [huf]; exact hT) (by rw [huf]; exact ho) (fun c hm => hc c (List.mem_cons_of_mem b hm))
      (by rw [huf]; exact hin.advance)
    refine ⟨_, t, hu.trans ht, htf.trans ?_⟩
    rw [huf, bitsOf, List.append_assoc]

/-! ### The source of an artifact -/

/-- A symbol's entry of CODE holds the code of its leaf (R48, R230). -/
theorem mem_codes_bitString {T : Tree} {table : Vector CodeEntry 257} {k : Fin 257} {sym : Symbol}
    (h : CodesAre table T.codes) (hk : indexSymbol k = sym) (hm : sym ∈ T.symbols) :
    (sym, (table[k.val]).bitString) ∈ T.codes := by
  subst hk
  obtain ⟨p, hp, -⟩ := exists_code hm
  obtain ⟨hcoded, -⟩ := h
  rw [hcoded k p hp]
  exact hp

theorem indexSymbol_byteIndex (b : Byte) : indexSymbol (byteIndex b) = b.setWidth 9 := by
  apply BitVec.eq_of_toNat_eq
  rw [indexSymbol_toNat, BitVec.toNat_setWidth_of_le (by decide)]
  rfl

/-- A tree has one leaf more than it has internal nodes. -/
theorem size_eq (T : Tree) : T.size + 1 = 2 * T.symbols.length := by
  induction T with
  | leaf sym w => rfl
  | node w l r ihl ihr => rw [Tree.size, Tree.symbols, List.length_append]; omega

/-- A source has at most 256 byte values, and so its tree at most 513 nodes (R207, R211). -/
theorem sourceTree_size {T : Tree} {src : List Byte} (h : T.symbols.Perm (sourceSymbols src)) : T.size ≤ 513 := by
  have hbytes : src.dedup.length ≤ 256 := by
    have hcard := (List.nodup_dedup src).length_le_card
    rwa [← FinEnum.card_eq_fintypeCard, FinEnum.card_bitVec] at hcard
  have hlen := h.length_eq
  rw [sourceSymbols, List.length_append, List.length_map, List.length_singleton] at hlen
  have := size_eq T
  omega

/-- DECOMPRESS of an input that goes on, from its cursor, with an artifact (R114) delivers the bytes of its payload
(R154, R155). -/
theorem decompress_artifact {T : Tree} {table : Vector CodeEntry 257} {src : List Byte} {more : List Bool}
    (h : Ready s 2#32) (hsize : T.size ≤ 513)
    (hc : ∀ b ∈ src, (b.setWidth 9, (table[(byteIndex b).val]).bitString) ∈ T.codes)
    (hsent : (sentinel, (table[sentinelIndex.val]).bitString) ∈ T.codes)
    (hin : s.inp.Offers (bin 32 s.magic.toNat ++ (T.header ++ (payload table src ++ more)))) :
    ∃ t, Leads s t ∧ t.phase = .idle ∧ t.status = Status.accepted.completed ∧
      t.out = OutPort.delivered (bitsOf src) := by
  obtain ⟨s0, hstep, h0, f0⟩ := launch_decompress h
  obtain ⟨s1, h1, f1⟩ := readMagic_match h0 (by rw [f0]) (by rw [f0]; exact hin)
  have hin1 : s1.inp.Offers (T.header ++ (payload table src ++ more)) := by
    rw [f1, f0]; simpa using hin.advance
  obtain ⟨k2, s2, h2, hT, f2⟩ := readHeader_root h1.turns (by rw [f1]) (by rw [f1]) (by rw [f1]) (by rw [f1]) hin1 hsize
  have hin2 : s2.inp.Offers (payload table src ++ more) := by
    rw [f2]; exact hin1.advance
  have hout2 : s2.out = { s.out with ob := [] } := by rw [f2, f1, f0]
  obtain ⟨k3, s3, h3, f3⟩ := decode_payload src h2.turns (by rw [f2]) (by rw [f2]) (by rw [f2]) hT
    (by rw [hout2]; exact h.opened) (by rwa [unweighted_codes]) (by rwa [unweighted_codes]) hin2
  obtain ⟨t, h4, f4⟩ := close_output h3.turns (by rw [f3]) (by rw [f3, hout2]; exact h.opened)
  refine ⟨t, ⟨_, (runs_succ _ hstep).trans (((h1.trans h2).trans h3).trans h4).runs⟩, by rw [f4], ?_, ?_⟩
  · rw [f4, f3, f2, f1, f0]
  · rw [f4, f3, hout2, List.nil_append]

/-- Settles O58: the artifact of COMPRESS is one of the tree it made and of the source's payload, which DECOMPRESS turns
back (`decompress_artifact`). -/
theorem decompressOfCompressIsTheSource : Obligations.DecompressOfCompressIsTheSource := by
  unfold Obligations.DecompressOfCompressIsTheSource
  intro s src hlaunch hlen
  obtain ⟨t, T, hleads, hidle, hstatus, -, -, -, -, -, hsyms, hcodes, hob, hsink, -⟩ :=
    compressWritesTheArtifact s src hlaunch hlen
  refine ⟨t, hleads, hidle, hstatus, fun u more hready he ha hmagic => ?_⟩
  rw [hsink, hob, padded] at ha
  have hbytes : ∀ b ∈ src, (b.setWidth 9, (t.code[(byteIndex b).val]).bitString) ∈ T.codes := fun b hb =>
    mem_codes_bitString hcodes (indexSymbol_byteIndex b) (hsyms.mem_iff.mpr
      (List.mem_append_left _ (List.mem_map_of_mem (List.mem_dedup.mpr hb))))
  have hsent : (sentinel, (t.code[sentinelIndex.val]).bitString) ∈ T.codes :=
    mem_codes_bitString hcodes rfl (hsyms.mem_iff.mpr (List.mem_append_right _ (List.mem_singleton.mpr rfl)))
  obtain ⟨v, hv, hvidle, hvstatus, hvout⟩ := decompress_artifact hready (sourceTree_size hsyms) hbytes hsent
    ⟨he, ha.trans (by rw [hmagic]; simp only [List.append_assoc]; rfl)⟩
  refine ⟨v, hv, hvidle, by rw [hvstatus]; decide, ?_⟩
  rw [hvout, OutPort.delivered, padded_of_dvd (by simp), bytesOf_bitsOf]

end Sys2Proof.Machine

/-! ## Commands (40_commands.md): acceptance, the end of a command, and the edges of the sequencer -/
namespace Sys2Proof.Machine

variable {s t u : State}

/-! ### Acceptance -/

theorem launch_busy {op : Op} {placed : Bool} {start : State → State} (hb : s.status.busy = true) :
    launch op placed start s = .next s := by
  simp [launch, hb]

theorem launch_idle {op : Op} {placed : Bool} {start : State → State} (hb : s.status.busy = false)
    (ha : s.aliased = false) (hp : placed = true) (ho : s.out.oc = false) :
    launch op placed start s = .next (start (accept op s)) := by
  simp [launch, hb, ha, hp, ho]

theorem execIllegal_busy {w : Word} (hb : s.status.busy = true) : execIllegal w s = .next s := by
  simp [execIllegal, hb]

theorem execIllegal_idle {w : Word} (hb : s.status.busy = false) : execIllegal w s = .next { s with
    status := (Status.accepted.withError .illegalCommand).completed
    errinfo := 0#32, op := .noOp, phase := .idle, pending := .top, trace := [] } := by
  simp [execIllegal, hb]

/-- A command word is lost on a busy core, whatever it selects (R151). -/
theorem exec_decodeCommand_busy (w : Word) (hb : s.status.busy = true) : exec (decodeCommand w) s = .next s := by
  unfold decodeCommand
  split
  · exact launch_busy hb
  split
  · exact launch_busy hb
  · exact execIllegal_busy (w := w) hb

/-- Settles O7: an idle core's launch, with the start of COUNT. -/
theorem compressIsAccepted : Obligations.CompressIsAccepted := by
  unfold Obligations.CompressIsAccepted
  intro s hb ha hic ho
  exact launch_idle hb ha (atStart_iff.mpr hic) ho

/-- Settles O8: an idle core's launch, with the start of READ_MAGIC. -/
theorem decompressIsAccepted : Obligations.DecompressIsAccepted := by
  unfold Obligations.DecompressIsAccepted
  intro s hb ha ho
  exact launch_idle hb ha rfl ho

/-- Settles O9: the whole next state is that of `execIllegal_idle`. -/
theorem illegalWordCompletesAtOnce : Obligations.IllegalWordCompletesAtOnce := by
  unfold Obligations.IllegalWordCompletesAtOnce
  intro s w _ _ hb
  have hword : (Status.accepted.withError .illegalCommand).completed.word = 0xA06#32 := by decide
  exact ⟨_, execIllegal_idle (w := w) hb, hword, rfl, rfl, rfl, rfl, rfl, rfl, rfl, rfl, rfl, rfl, rfl⟩

/-! ### The end of a command -/

theorem complete_ok (s : State) : complete .ok s = { s with
    status := s.status.completed, phase := .idle, op := .noOp, pending := .top } := rfl

/-- The fault of OutClose is reported when no error stands (R157). -/
theorem complete_fault_first {c : Word} (he : s.status.errcode = .noError) : complete (.fault c) s = { s with
    status := (s.status.withError .portFaultOut).completed, errinfo := c, phase := .idle, op := .noOp
    pending := .top } := by
  simp [complete, he]

/-- The first error wins (R322). -/
theorem complete_fault_later {c : Word} (he : s.status.errcode ≠ .noError) : complete (.fault c) s = complete .ok s := by
  simp [complete, he]

theorem coreStep_of_close (h : s.phase = .close) : coreStep s = closeStep s := by
  simp [coreStep, h]

theorem closeStep_of_outClose {a : AckAnswer} (h : outClose s = .next (a, u)) : closeStep s = .next (complete a u) := by
  simp [closeStep, h]

/-- BUSY and DONE at the end of a command, however OutClose was answered (R157). -/
theorem complete_ends (a : AckAnswer) (s : State) :
    (complete a s).phase = .idle ∧ (complete a s).status.busy = false ∧ (complete a s).status.done = true := by
  refine ⟨by rw [complete_frame], ?_⟩
  obtain h | ⟨-, h⟩ := complete_status a s <;> rw [h] <;> exact ⟨rfl, rfl⟩

/-- Settles O31: OutClose's two answers, and for a fault whether an error stood before it. -/
theorem completionKeepsTheFirstError : Obligations.CompletionKeepsTheFirstError := by
  unfold Obligations.CompletionKeepsTheFirstError
  intro s hc hp ho
  rw [step_of_coreTurn hc, coreStep_of_close hp]
  refine ⟨fun hd => ?served, fun c e hd => ?fault⟩
  case served =>
    refine ⟨_, closeStep_of_outClose (outClose_ok ho hd), ?_⟩
    rw [complete_ok, turn_record_frame]
    exact ⟨rfl, rfl, rfl, rfl, rfl, rfl, rfl⟩
  case fault =>
    have hx := outClose_fault ho hd
    generalize hu : ({ s.turn.record (.outClose (.fault c)) with
      out := { ob := s.out.ob ++ e.bits, oc := e.closed, sink := e.sink } } : State) = u at hx
    have hi := outClose_issues hx
    have hinp : u.inp = s.inp := by rw [← hu]; exact turn_inp s
    have herr : u.errinfo = s.errinfo := by rw [hi.frame]
    refine ⟨_, closeStep_of_outClose hx, (complete_ends _ _).1, by rw [complete_frame],
      (complete_trace _ _).trans hi.trace, by rw [complete_frame, ← hinp], fun he => ?_, fun he => ?_⟩
    · rw [complete_fault_first (hi.status ▸ he)]
      exact ⟨rfl, rfl⟩
    · rw [complete_fault_later (hi.status ▸ he), complete_ok]
      exact ⟨congrArg Status.completed hi.status, herr⟩

/-- A turn of the core ends a running command in CLOSE alone. -/
theorem CoreMove.ends (h : CoreMove s t) (hs : s.status.busy = true) (ht : t.status.busy = false) :
    s.phase = .close := by
  obtain hst | ⟨e, -, -, -, hst⟩ | ⟨hp, -, -⟩ := h.status
  · simp [hst, hs] at ht
  · simp [hst, Status.withError, hs] at ht
  · exact hp

/-- A turn of the host ends a running command by a reset alone. -/
theorem hostStep_ends {e : HostEvent} (h : hostStep e s = .next t) (hs : s.status.busy = true)
    (ht : t.status.busy = false) : ∃ inp out, e = .reset inp out := by
  obtain hst | ⟨hb, -, -⟩ | ⟨hb, -⟩ | ⟨he, -⟩ := hostStep_status h
  · simp [hst, hs] at ht
  · simp [hs] at hb
  · simp [hs] at hb
  · exact he

/-- Settles O6: a busy core ignores a command word, and the writes of STATUS say what ends a command. -/
theorem commandWhileBusyIsLost : Obligations.CommandWhileBusyIsLost := by
  unfold Obligations.CommandWhileBusyIsLost
  refine ⟨fun s w rest h hb => ?_, fun s t _ hs hst ht => ?_⟩
  · have hlost := exec_decodeCommand_busy (s := { s with inputs := rest }) w hb
    exact ⟨hlost, (step_of_hostTurn h).trans hlost⟩
  · obtain hc | ⟨e, rest, he⟩ := turn_cases s
    · exact .inl ⟨(coreStep_moves ((step_of_coreTurn hc).symm.trans hst)).ends hs ht, hc⟩
    · obtain ⟨inp, out, rfl⟩ := hostStep_ends ((step_of_hostTurn he).symm.trans hst) hs ht
      exact .inr ⟨inp, out, rest, he⟩

/-! ### A magic mismatch -/

/-- READ_MAGIC of an input that does not go on with MAGIC, or that has answered EOI, raises BAD_MAGIC (R161, R265). -/
theorem readMagic_mismatch (h : s.allServed) (hp : s.phase = .rmagic)
    (hbad : s.inp.eoi = true ∨ s.inp.ahead.take 32 ≠ bin 32 s.magic.toNat) :
    ∃ t a, Serves 1 s t ∧ t = { s with
      status := s.status.withError .badMagic, errinfo := t.errinfo, phase := .close, pending := .top, inp := t.inp
      freeIdx := t.freeIdx, inputs := t.inputs, trace := s.trace ++ [.inRead 32 a] } := by
  have hs : step s = readMagicStep s := (step_of_allServed h).trans (coreStep_of_rmagic hp)
  have hd := draw_of_allServed h
  cases hx : s.inp.exhausted 32 with
  | true =>
    have ht : readMagicStep s = .next (raise .badMagic 0#32 (s.afterEoi 32)) := by
      simp [readMagicStep, inRead_eoi hd hx]
    refine ⟨_, .eoi, serves_of_step h (hs.trans ht), ?_⟩
    rw [raise, afterEoi_frame]
  | false =>
    have hne : BitVec.ofNat 32 (s.inp.field 32) ≠ s.magic := fun heq => by
      obtain he | htake := hbad
      · simp [(not_exhausted_iff.mp hx).1] at he
      · refine htake ((bin_field hx).symm.trans (congrArg (bin 32) ?_))
        rw [← heq, BitVec.toNat_ofNat, Nat.mod_eq_of_lt field_lt]
    have ht : readMagicStep s = .next (raise .badMagic (BitVec.ofNat 32 (s.inp.field 32)) (s.afterRead 32)) := by
      simp [readMagicStep, inRead_value hd hx, hne]
    refine ⟨_, .val (s.inp.field 32), serves_of_step h (hs.trans ht), ?_⟩
    rw [raise, afterRead_frame]

theorem step_of_runs_one (h : runs 1 s = .next t) : step s = .next t := by
  obtain ⟨u, hu, h0⟩ := andThen_eq_next h
  obtain rfl := Host.Outcome.next.inj h0
  exact hu

/-- CLOSE issues OutClose alone. -/
theorem close_trace (h : s.allServed) (hp : s.phase = .close) (ho : s.out.oc = false) (hs : step s = .next t) :
    t.trace = s.trace ++ [.outClose .ok] := by
  have hclose : step s = .next (complete .ok { s.turn.record (.outClose .ok) with out := s.out.closed }) := by
    rw [step_of_allServed h, coreStep_of_close hp, closeStep_of_outClose (outClose_ok ho (draw_of_allServed h))]
  obtain rfl := Host.Outcome.next.inj (hclose.symm.trans hs)
  rw [complete_trace, turn_record_frame]

/-- Settles O46: the acceptance, the mismatch, and CLOSE, which delivers no byte of an output without bits. -/
theorem badMagicEndsDecompress : Obligations.BadMagicEndsDecompress := by
  unfold Obligations.BadMagicEndsDecompress
  intro s h hbad
  obtain ⟨u, hstep, hu, fu⟩ := launch_decompress h
  obtain ⟨v, a, hv, fv⟩ := readMagic_mismatch hu (by rw [fu]) (by rw [fu]; exact hbad)
  have hvout : v.out = { s.out with ob := [] } := by rw [fv, fu]
  obtain ⟨t, ht, ft⟩ := close_output hv.turns (by rw [fv]) (by rw [hvout]; exact h.opened)
  have htrace := close_trace hv.turns (by rw [fv]) (by rw [hvout]; exact h.opened) (step_of_runs_one ht.runs)
  have hout : t.out = OutPort.delivered [] := by rw [ft, hvout]
  have hstatus : t.status = (Status.accepted.withError .badMagic).completed := by rw [ft, fv, fu]
  refine ⟨t, a, (runs_succ 2 hstep).trans (hv.trans ht).runs, by rw [ft], by rw [hstatus]; decide, ?_,
    by rw [hout]; rfl, by rw [hout]; rfl⟩
  rw [htrace, fv, fu]
  rfl

/-! ### The edges of the sequencer -/

theorem startBuild_phase (h : startBuild s = .next t) : t.phase = .build := by
  have hseed : Seeded { s with phase := .build, nnodes := 0, q := [] } := ⟨.nil, by simp, Nat.zero_le _⟩
  obtain ⟨u, hu, -, -, -, -, hframe⟩ := seedAll_spec (seedLeaves s.freq) hseed
    (by have := seedLeaves_length s.freq; simp only; omega)
  simp only [startBuild, hu, Host.Outcome.next.injEq] at h
  rw [← h, hframe]

theorem deliver_phase (i : NodeIdx) (fs : List Frame) (s : State) :
    (deliver i fs s).phase = s.phase ∨ (deliver i fs s).phase = .decode := by
  induction fs generalizing i s with
  | nil => exact .inr rfl
  | cons f fs ih =>
    unfold deliver
    split
    · exact ih f.node (s.setNode f.node { s.nodeAt f.node with r := i })
    · exact .inl rfl

theorem edge_of_goesOn {p q : Phase} (h : p.goesOn q = true) : q = p ∨ p.edge q = true := by
  revert h
  cases p <;> cases q <;> decide

theorem edge_close {p : Phase} (h : p ≠ .idle ∧ p ≠ .close) : p.edge .close = true := by
  revert h
  cases p <;> decide

/-- Outside COUNT, what follows a transaction stays in its phase or moves along an edge (R158). -/
theorem Continues.phase (h : Continues u t) (hc : u.phase ≠ .count) :
    t.phase = u.phase ∨ u.phase.edge t.phase = true := by
  cases h with
  | raised hp he => exact .inr (edge_close hp)
  | counted hp ht => exact absurd hp hc
  | built hp hb hg => exact absurd hp hc
  | wentOn hp hd => exact edge_of_goesOn hp
  | magicRead hp => rw [hp]; exact .inr rfl
  | flagRead hp => exact .inl rfl
  | nodeRead hp hn => exact .inl rfl
  | leafRead hp hn =>
    refine (deliver_phase _ u.hstack _).imp id fun h => ?_
    rw [h, hp]; rfl

/-- COUNT's step stays in COUNT, goes to CLOSE, or is that of its EOI, with BUILD and GENCODES (R12, R158). -/
theorem countStep_phase (hp : s.phase = .count) (hs : countStep s = .next t) :
    t.phase = .count ∨ t.phase = .close ∨
      (s.draw = .serve ∧ s.inp.exhausted 8 = true ∧
        ∃ u v, startBuild (s.afterEoi 8) = .next u ∧ mergeAll u.q.length u = .next v ∧ gencodes v = .next t) := by
  obtain ⟨⟨a, u⟩, hr, ht⟩ := andThen_eq_next hs
  obtain ⟨c, e, -, hr⟩ | ⟨hd, hx, hr⟩ | ⟨-, -, hr⟩ := inRead_cases hr <;> obtain ⟨rfl, rfl⟩ := Prod.mk.inj hr
  · obtain rfl := Host.Outcome.next.inj ht
    exact .inr (.inl rfl)
  · obtain ⟨w, hb, hg⟩ := andThen_eq_next ht
    obtain ⟨v, hv, hm⟩ := andThen_eq_next hb
    exact .inr (.inr ⟨hd, hx, v, w, hv, hm, hg⟩)
  · simp only at ht
    split at ht <;> obtain rfl := Host.Outcome.next.inj ht
    · exact .inr (.inl rfl)
    · exact .inl (by simpa using hp)

theorem gencodes_phase (h : gencodes s = .next t) : t.phase = .wmagic := by
  rw [gencodes_frame h]

/-- Outside COUNT, a turn of the core stays in its phase or moves along an edge (R158). -/
theorem CoreMove.phase (h : CoreMove s t) (hinv : Inv s) (hc : s.phase ≠ .count) :
    t.phase = s.phase ∨ s.phase.edge t.phase = true := by
  cases h with
  | waits hp => exact .inl (turn_phase s)
  | merges hp hm hg => exact absurd hp hinv.no_rest.1
  | codes hp hg => exact absurd hp hinv.no_rest.2
  | skips hp hk => rw [hp]; exact .inr rfl
  | closes hp hx => rw [hp, (complete_ends _ _).1]; exact .inr rfl
  | proceeds h =>
    obtain ⟨u, x, hx, hu⟩ := h
    rw [← hx.phase]
    exact hu.phase (hx.phase ▸ hc)

/-- A turn of the host leaves PHASE, moves it along an edge, or is a reset (R158, R350). -/
theorem HostMove.phase (h : HostMove s t) (hinv : Inv s) :
    t.phase = s.phase ∨ s.phase.edge t.phase = true ∨ (t.phase = .idle ∧ t.status = State.reset.status) := by
  have hidle : s.status.busy = false → s.phase = .idle := hinv.idle_iff.mpr
  cases h with
  | compresses hb ho => rw [hidle hb]; exact .inr (.inl rfl)
  | decompresses hb ho => rw [hidle hb]; exact .inr (.inl rfl)
  | illegal hb => rw [hidle hb]; exact .inl rfl
  | resets => exact .inr (.inr ⟨rfl, rfl⟩)
  | _ => exact .inl rfl

/-- Settles O53: COUNT's step (`countStep_phase`), the core's other moves, and the host's; only a reset takes a busy core
to IDLE outside CLOSE. -/
theorem phaseMovesOnlyAlongTheEdges : Obligations.PhaseMovesOnlyAlongTheEdges := by
  unfold Obligations.PhaseMovesOnlyAlongTheEdges
  refine ⟨fun s t hinv hs => ?_, fun s t => startBuild_phase, fun s t size h => ?_, fun s => rfl,
    fun s t levels i path h => ?_, fun s t => gencodes_phase⟩
  · obtain hc | ⟨e, rest, he⟩ := turn_cases s
    · rw [step_of_coreTurn hc] at hs
      by_cases hp : s.phase = .count
      · rw [coreStep_of_count hp] at hs
        obtain h | h | ⟨hd, hx, u, v, hu, hv, hg⟩ := countStep_phase hp hs
        · exact .inl (h.trans hp.symm)
        · exact .inr (.inl (by rw [hp, h]; rfl))
        · exact .inr (.inr (.inl ⟨hp, served_iff.mpr ⟨hc, hd⟩, hx, gencodes_phase hg, u, v, hu, hv, hg⟩))
      · exact ((coreStep_moves hs).phase hinv hp).imp_right .inl
    · rw [step_of_hostTurn he] at hs
      obtain h | h | ⟨hidle, hst⟩ := (hostStep_moves hs).phase { hinv with }
      · exact .inl h
      · exact .inr (.inl h)
      · cases hb : s.status.busy with
        | false => exact .inl (hidle.trans (hinv.idle_iff.mpr hb).symm)
        | true =>
          obtain ⟨inp, out, rfl⟩ := hostStep_ends hs hb (by rw [hst]; rfl)
          exact .inr (.inr (.inr ⟨⟨inp, out, rest, he⟩, hidle⟩))
  · rw [mergeAll_frame size h]
  · rw [visit_frame levels h]

end Sys2Proof.Machine

/-! ## Completion: every command ends when every transaction is answered

Each phase comes to its end because its loop consumes the input (COUNT, READ_HEADER, ENCODE, DECODE) or the tree that is
pending (WRITE_HEADER), and a fault leads to CLOSE at once. The lemmas run from CLOSE back to the start of a command. -/
namespace Sys2Proof.Machine

variable {s t u : State}

/-! ### Answered turns -/

/-- Every turn to come is the core's, and its port answers. -/
def State.answered (s : State) : Prop :=
  ∀ x ∈ s.inputs, ∃ d, x = .core d ∧ d ≠ .silent

theorem answered_turn (h : s.answered) : s.turn.answered := by
  unfold State.answered State.turn at *
  split
  · next hi => exact fun x hx => h x (by rw [hi]; exact List.mem_cons_of_mem _ hx)
  · exact h

theorem coreTurn_of_answered (h : s.answered) : s.coreTurn = true := by
  obtain hc | ⟨e, rest, he⟩ := turn_cases s
  · exact hc
  · obtain ⟨d, hd, -⟩ := h (.host e) (by rw [show s.inputs = _ from he]; exact List.mem_cons_self)
    cases hd

theorem draw_of_answered (h : s.answered) : s.draw ≠ .silent := by
  unfold State.draw
  split
  · next d rest hi =>
    obtain ⟨d', hd, hne⟩ := h (.core d) (by rw [hi]; exact List.mem_cons_self)
    cases hd
    exact hne
  · simp

/-- A running command: its output is open, and every turn to come is answered. -/
structure Running (s : State) : Prop where
  answered : s.answered
  opened : s.out.oc = false

theorem Running.step (h : Running s) : step s = coreStep s :=
  step_of_coreTurn (coreTurn_of_answered h.answered)

theorem Running.of_turn (h : Running s) (hi : u.inputs = s.turn.inputs) (ho : u.out.oc = s.out.oc) : Running u where
  answered x hx := answered_turn h.answered x (hi ▸ hx)
  opened := ho.trans h.opened

/-- The command that runs comes to its end: some number of steps leads to an idle core that is DONE. -/
def Completes (s : State) : Prop :=
  ∃ t, Reaches s t ∧ t.phase = .idle ∧ t.status.busy = false ∧ t.status.done = true

theorem completes_of_step (hs : step s = .next t) (h : Completes t) : Completes s := by
  obtain ⟨v, hv, hend⟩ := h
  exact ⟨v, reaches_trans (reaches_of_step hs) hv, hend⟩

/-- OutClose is answered, and ends the command (R157). -/
theorem completes_of_close (h : Running s) (hp : s.phase = .close) : Completes s := by
  have hs := h.step.trans (coreStep_of_close hp)
  suffices hx : ∃ a u, outClose s = .next (a, u) by
    obtain ⟨a, u, hx⟩ := hx
    exact completes_of_step (hs.trans (closeStep_of_outClose hx)) ⟨_, reaches_refl _, complete_ends a u⟩
  cases hd : s.draw with
  | serve => exact ⟨_, _, outClose_ok h.opened hd⟩
  | fault c e => exact ⟨_, _, outClose_fault h.opened hd⟩
  | silent => exact absurd hd (draw_of_answered h.answered)

/-- After error entry only CLOSE is left (R320). -/
theorem completes_of_raise {e : ErrCode} {info : Word} (h : Running s) : Completes (raise e info s) :=
  completes_of_close ⟨h.answered, h.opened⟩ rfl

/-! ### A transaction, and what its answer leads to -/

/-- A read is answered with a fault, which leads to CLOSE, with EOI, or with a value. -/
theorem completes_of_inRead {n : Nat} {f : InAnswer × State → Host.Outcome State Fault Refusal} (h : Running s)
    (hs : step s = andThen (inRead n s) f) (hfault : ∀ c u, f (.fault c, u) = .next (raise .portFaultIn c u))
    (heoi : Running (s.afterEoi n) → ∃ t, f (.eoi, s.afterEoi n) = .next t ∧ Completes t)
    (hval : s.inp.exhausted n = false → Running (s.afterRead n) →
      ∃ t, f (.val (s.inp.field n), s.afterRead n) = .next t ∧ Completes t) : Completes s := by
  cases hd : s.draw with
  | silent => exact absurd hd (draw_of_answered h.answered)
  | fault c e =>
    rw [inRead_fault hd, andThen_next, hfault] at hs
    exact completes_of_step hs (completes_of_raise (h.of_turn rfl (congrArg OutPort.oc (turn_out s))))
  | serve =>
    cases hx : s.inp.exhausted n with
    | true =>
      obtain ⟨t, ht, hend⟩ := heoi (h.of_turn (by simp) (by simp))
      rw [inRead_eoi hd hx, andThen_next, ht] at hs
      exact completes_of_step hs hend
    | false =>
      obtain ⟨t, ht, hend⟩ := hval hx (h.of_turn (by simp) (by simp))
      rw [inRead_value hd hx, andThen_next, ht] at hs
      exact completes_of_step hs hend

/-- InReset is answered with a fault, which leads to CLOSE, or OK. -/
theorem completes_of_inReset {f : AckAnswer × State → Host.Outcome State Fault Refusal} (h : Running s)
    (hs : step s = andThen (inReset s) f) (hfault : ∀ c u, f (.fault c, u) = .next (raise .portFaultIn c u))
    (hok : ∀ u, Running u → Transacts s u (.inReset .ok) → ∃ t, f (.ok, u) = .next t ∧ Completes t) :
    Completes s := by
  cases hd : s.draw with
  | silent => exact absurd hd (draw_of_answered h.answered)
  | fault c e =>
    rw [inReset_fault hd, andThen_next, hfault] at hs
    exact completes_of_step hs (completes_of_raise (h.of_turn rfl (congrArg OutPort.oc (turn_out s))))
  | serve =>
    have hx := inReset_ok hd
    obtain ⟨t, ht, hend⟩ := hok _ (by exact h.of_turn rfl (congrArg OutPort.oc (turn_out s))) (inReset_transacts hx)
    rw [hx, andThen_next, ht] at hs
    exact completes_of_step hs hend

/-- OutWrite is answered with a fault, which leads to CLOSE, or OK. -/
theorem completes_of_outWrite {n v : Nat} {f : AckAnswer × State → Host.Outcome State Fault Refusal} (h : Running s)
    (hs : step s = andThen (outWrite n v s) f) (h1 : 1 ≤ n) (h2 : n ≤ 256)
    (hfault : ∀ c u, f (.fault c, u) = .next (raise .portFaultOut c u))
    (hok : Running (s.afterWrite n v) → ∃ t, f (.ok, s.afterWrite n v) = .next t ∧ Completes t) : Completes s := by
  cases hd : s.draw with
  | silent => exact absurd hd (draw_of_answered h.answered)
  | fault c e =>
    rw [outWrite_fault h1 h2 h.opened hd, andThen_next, hfault] at hs
    exact completes_of_step hs (completes_of_raise (h.of_turn rfl rfl))
  | serve =>
    obtain ⟨t, ht, hend⟩ := hok (h.of_turn (by simp) (by simp))
    rw [outWrite_ok h1 h2 h.opened hd, andThen_next, ht] at hs
    exact completes_of_step hs hend

/-- The number of input bits that are left (R71). -/
def InPort.left (p : InPort) : Nat :=
  p.size - p.ic

/-- A read that returns a value leaves fewer bits (R72). -/
theorem left_afterRead {n : Nat} (hn : 0 < n) (hx : s.inp.exhausted n = false) :
    (s.afterRead n).inp.left < s.inp.left := by
  have hroom := (not_exhausted_iff.mp hx).2
  rw [afterRead_inp]
  simp only [InPort.left, InPort.size] at *
  omega

/-! ### DECOMPRESS -/

/-- A literal is written, and DECODE is at the root again. -/
theorem completes_of_literal {b : Byte} (h : Running s) (hp : s.phase = .decode) (hpe : s.pending = .literal b)
    (hnext : ∀ t, Running t → t.phase = .decode → t.pending = .top → t.inp = s.inp → Completes t) :
    Completes s := by
  have hs := h.step.trans (coreStep_of_decode hp)
  simp only [decodeStep, hpe, decodeWrite] at hs
  exact completes_of_outWrite h hs (by decide) (by decide) (fun _ _ => rfl) fun hw =>
    ⟨_, rfl, hnext _ ⟨hw.answered, hw.opened⟩ (by simpa using hp) rfl (by simp)⟩

/-- DECODE ends: every turn of its loop reads a bit. -/
theorem completes_of_decode (h : Running s) (hp : s.phase = .decode) (hpe : s.pending = .top) : Completes s := by
  induction hm : s.inp.left using Nat.strong_induction_on generalizing s with
  | _ m ih =>
    have hs := h.step.trans (coreStep_of_decode hp)
    simp only [decodeStep, hpe, decodeRead] at hs
    refine completes_of_inRead h hs (fun _ _ => rfl) (fun hr => ⟨_, rfl, completes_of_raise hr⟩) fun hx hr =>
      ⟨_, rfl, ?_⟩
    have hless := left_afterRead Nat.one_pos hx
    have hphase : (s.afterRead 1).phase = .decode := by simpa using hp
    generalize s.afterRead 1 = u at hr hless hphase
    generalize nextNode u (s.inp.field 1 != 0) = i
    unfold reach
    split_ifs
    · exact completes_of_close ⟨hr.answered, hr.opened⟩ rfl
    · exact completes_of_raise hr
    · refine completes_of_literal (b := (u.nodeAt i).sym.setWidth 8) ⟨hr.answered, hr.opened⟩ hphase rfl
        fun t ht htp htpe htin => ih _ ?_ ht htp htpe rfl
      rw [htin]
      exact hm ▸ hless
    · exact ih _ (hm ▸ hless) ⟨hr.answered, hr.opened⟩ hphase rfl rfl

theorem runToken_next (bits : List Bool) (hp : s.phase = .rheader) : ∃ t, runToken bits s = .next t := by
  unfold runToken
  split
  · next i rest hd =>
    obtain rfl | ⟨sym, rfl⟩ := decode_hdr_cases hd
    · rw [exec, execNode_of_rheader hp, readNodeToken]
      split <;> exact ⟨_, rfl⟩
    · rw [exec, execLeaf_of_rheader hp, readLeafToken]
      split <;> exact ⟨_, rfl⟩
  · exact ⟨_, rfl⟩

theorem deliver_pending (i : NodeIdx) (fs : List Frame) (s : State) : (deliver i fs s).pending = .top := by
  induction fs generalizing i s with
  | nil => rfl
  | cons f fs ih =>
    unfold deliver
    split
    · exact ih ..
    · rfl

/-- After its read READ_HEADER raises an error, goes on, or has come to DECODE; it touches no port (R254). -/
theorem Continues.readHeader (hc : Continues u t) (hp : u.phase = .rheader) :
    (∃ e info, t = raise e info u) ∨ (t.inp = u.inp ∧ t.out = u.out ∧ t.inputs = u.inputs ∧
      (t.phase = .rheader ∨ t.phase = .decode ∧ t.pending = .top)) := by
  cases hc with
  | raised => exact .inl ⟨_, _, rfl⟩
  | counted hc | built hc | magicRead hc => rw [hp] at hc; cases hc
  | wentOn hg => rw [hp] at hg; cases hg
  | flagRead | nodeRead => exact .inr ⟨rfl, rfl, rfl, .inl hp⟩
  | leafRead _ hn =>
    refine .inr ⟨by rw [deliver_frame]; rfl, by rw [deliver_frame]; rfl, by rw [deliver_frame]; rfl, ?_⟩
    exact (deliver_phase _ u.hstack _).imp (·.trans hp) (⟨·, deliver_pending ..⟩)

/-- What follows READ_HEADER's read of a token's bits completes, if what goes on from the input that is left does. -/
theorem completes_of_runToken {bits : List Bool} (h : Running u) (hp : u.phase = .rheader)
    (hnext : ∀ t, Running t → t.phase = .rheader → t.inp = u.inp → Completes t) :
    ∃ t, runToken bits u = .next t ∧ Completes t := by
  obtain ⟨t, ht⟩ := runToken_next bits hp
  refine ⟨t, ht, ?_⟩
  obtain ⟨e, info, rfl⟩ | ⟨hin, hout, hi, hphase⟩ := (runToken_continues hp ht).readHeader hp
  · exact completes_of_raise h
  · have htr : Running t := ⟨fun x hx => h.answered x (hi ▸ hx), hout ▸ h.opened⟩
    obtain hrh | ⟨hde, hpe⟩ := hphase
    · exact hnext t htr hrh hin
    · exact completes_of_decode htr hde hpe

/-- READ_HEADER ends: every turn of its loop reads a bit or more. -/
theorem completes_of_rheader (h : Running s) (hp : s.phase = .rheader) : Completes s := by
  induction hm : s.inp.left using Nat.strong_induction_on generalizing s with
  | _ m ih =>
    have hs := h.step.trans (coreStep_of_rheader hp)
    have hrest : ∀ n bits, 0 < n → s.inp.exhausted n = false → Running (s.afterRead n) →
        ∃ t, runToken bits (s.afterRead n) = .next t ∧ Completes t := fun n bits hn hx hr =>
      completes_of_runToken hr (by simpa using hp) fun t ht htp htin =>
        ih _ (hm ▸ htin ▸ left_afterRead hn hx) ht htp rfl
    by_cases hpe : s.pending = .symField
    · rw [readHeaderStep_of_symField hpe] at hs
      exact completes_of_inRead h hs (fun _ _ => rfl) (fun hr => ⟨_, rfl, completes_of_raise hr⟩) fun hx hr =>
        hrest 9 _ (by decide) hx hr
    · have hflag : readHeaderStep s = readFlag s := by
        unfold readHeaderStep
        split
        · next hsym => exact absurd hsym hpe
        all_goals rfl
      rw [hflag] at hs
      exact completes_of_inRead h hs (fun _ _ => rfl) (fun hr => ⟨_, rfl, completes_of_raise hr⟩) fun hx hr =>
        hrest 1 _ (by decide) hx hr

theorem completes_of_rmagic (h : Running s) (hp : s.phase = .rmagic) : Completes s := by
  refine completes_of_inRead h (h.step.trans (coreStep_of_rmagic hp)) (fun _ _ => rfl)
    (fun hr => ⟨_, rfl, completes_of_raise hr⟩) fun _ hr => ?_
  simp only
  split
  · exact ⟨_, rfl, completes_of_rheader ⟨hr.answered, hr.opened⟩ rfl⟩
  · exact ⟨_, rfl, completes_of_raise hr⟩

/-! ### COMPRESS -/

/-- A symbol's code is written, and CLOSE follows the sentinel's. -/
theorem completes_of_code {k : Fin 257} (h : Running s) (hp : s.phase = .encode) (hpe : s.pending = .code k)
    (hc : (s.code[k.val]).len ≠ 0)
    (hnext : k ≠ sentinelIndex → ∀ t, Running t → t.phase = .encode → t.pending = .top → t.code = s.code →
      t.inp = s.inp → Completes t) : Completes s := by
  have hlen : 1 ≤ (s.code[k.val]).len.val := Nat.one_le_iff_ne_zero.mpr fun h0 => hc (Fin.ext h0)
  have hs := h.step.trans (coreStep_of_encode hp)
  simp only [encodeStep, hpe, encodeWrite] at hs
  refine completes_of_outWrite h hs hlen (by omega) (fun _ _ => rfl) fun hw => ?_
  simp only
  split
  · exact ⟨_, rfl, completes_of_close ⟨hw.answered, hw.opened⟩ rfl⟩
  · next hk => exact ⟨_, rfl, hnext hk _ ⟨hw.answered, hw.opened⟩ (by simpa using hp) rfl (by simp) (by simp)⟩

/-- ENCODE ends: every turn of its loop reads a byte, and the sentinel's code is written at the end of the input. -/
theorem completes_of_encode (h : Running s) (hp : s.phase = .encode) (hpe : s.pending = .top)
    (hsent : (s.code[sentinelIndex.val]).len ≠ 0) : Completes s := by
  induction hm : s.inp.left using Nat.strong_induction_on generalizing s with
  | _ m ih =>
    have hs := h.step.trans (coreStep_of_encode hp)
    simp only [encodeStep, hpe, encodeRead] at hs
    refine completes_of_inRead h hs (fun _ _ => rfl) (fun hr => ⟨_, rfl, ?_⟩) fun hx hr => ?_
    · exact completes_of_code (k := sentinelIndex) ⟨hr.answered, hr.opened⟩ (by simpa using hp) rfl
        (by simpa using hsent)
        fun hne => absurd rfl hne
    · simp only
      split
      · exact ⟨_, rfl, completes_of_raise hr⟩
      · next hc =>
        refine ⟨_, rfl, completes_of_code ⟨hr.answered, hr.opened⟩ (by simpa using hp) rfl hc
          fun _ t ht htp htpe htc htin => ih _ ?_ ht htp htpe (by simpa [htc] using hsent) rfl⟩
        rw [htin]
        exact hm ▸ left_afterRead (by decide) hx

theorem completes_of_rewind (h : Running s) (hp : s.phase = .rewind) (hsent : (s.code[sentinelIndex.val]).len ≠ 0) :
    Completes s := by
  have hs : step s = rewindStep s := h.step.trans (by simp [coreStep, hp])
  refine completes_of_inReset h hs (fun _ _ => rfl) fun u hu hx => ⟨_, rfl, ?_⟩
  have hcode : u.code = s.code := by rw [hx.frame]
  exact completes_of_encode ⟨hu.answered, hu.opened⟩ rfl rfl (by simpa [hcode] using hsent)

theorem writeHeaderStep_leaf {i : NodeIdx} {rest : List Frame} (hp : s.phase = .wheader)
    (hk : s.hstack = pendingNode i :: rest) (hl : (s.nodeAt i).isLeaf = true) :
    writeHeaderStep s = writeLeafToken (s.nodeAt i).sym s := by
  rw [writeHeaderStep_of_cons hk, pendingNode, token_of_leaf hl]
  exact execLeaf_of_wheader hp

theorem writeHeaderStep_node {i : NodeIdx} {rest : List Frame} (hp : s.phase = .wheader)
    (hk : s.hstack = pendingNode i :: rest) (hl : (s.nodeAt i).isLeaf = false) :
    writeHeaderStep s = writeNodeToken s := by
  rw [writeHeaderStep_of_cons hk, pendingNode, token_of_node hl]
  exact execNode_of_wheader hp

/-- WRITE_HEADER writes the subtree of a pending node, by induction on the subtree, and goes on to the nodes after it. -/
theorem completes_of_subtree {T : Tree} {i : NodeIdx} {rest : List Frame} (h : Running s) (hp : s.phase = .wheader)
    (hpe : s.pending = .top) (hk : s.hstack = pendingNode i :: rest) (hT : Holds s.node i T)
    (hnext : ∀ t, Running t → t = { headerWritten rest s with out := t.out, inputs := t.inputs, trace := t.trace } →
      Completes t) : Completes s := by
  induction T generalizing s i rest with
  | leaf sym w =>
    obtain ⟨hl, -, -⟩ := hT
    have hflag := h.step.trans ((coreStep_of_wheader hp).trans (writeHeaderStep_leaf hp hk hl))
    simp only [writeLeafToken, hk, hpe] at hflag
    refine completes_of_outWrite h hflag (by decide) (by decide) (fun _ _ => rfl) fun hw => ⟨_, rfl, ?_⟩
    generalize hv : ({ s.afterWrite 1 1 with pending := .symField } : State) = v
    have hvf : v = { s with pending := .symField, out := v.out, inputs := v.inputs, trace := v.trace } := by
      rw [← hv, afterWrite_frame]
    have hrun : Running v := hv ▸ ⟨hw.answered, hw.opened⟩
    have hvk : v.hstack = pendingNode i :: rest := by rw [hvf]; exact hk
    have hvpe : v.pending = .symField := by rw [hvf]
    have hvp : v.phase = .wheader := by rw [hvf]; exact hp
    have hsym := hrun.step.trans ((coreStep_of_wheader hvp).trans (writeHeaderStep_leaf hvp hvk (by rw [hvf]; exact hl)))
    simp only [writeLeafToken, hvk, hvpe] at hsym
    refine completes_of_outWrite hrun hsym (by decide) (by decide) (fun _ _ => rfl) fun hw' =>
      ⟨_, rfl, hnext _ ⟨hw'.answered, hw'.opened⟩ ?_⟩
    rw [afterWrite_frame, hvf]; rfl
  | node w l r ihl ihr =>
    obtain ⟨hi, -, hl, hr⟩ := hT
    have hs := h.step.trans ((coreStep_of_wheader hp).trans (writeHeaderStep_node hp hk hi))
    simp only [writeNodeToken, hk, pendingNode] at hs
    refine completes_of_outWrite h hs (by decide) (by decide) (fun _ _ => rfl) fun hw => ⟨_, rfl, ?_⟩
    refine ihl ⟨hw.answered, hw.opened⟩ (by simpa using hp) (by simpa using hpe) rfl
      (by simpa [State.nodeAt] using hl) fun t ht htf => ?_
    have htk : t.hstack = pendingNode (s.nodeAt i).r :: rest := by rw [htf]; rfl
    refine ihr ht (by rw [htf]; rfl) (by rw [htf]; rfl) htk (by rw [htf]; simpa [State.nodeAt] using hr)
      fun t' ht' htf' => hnext t' ht' (htf'.trans ?_)
    rw [htf, afterWrite_frame]; rfl

theorem completes_of_wmagic {T : Tree} (h : Running s) (hp : s.phase = .wmagic) (hT : Holds s.node s.root T)
    (hsent : (s.code[sentinelIndex.val]).len ≠ 0) : Completes s := by
  have hs : step s = writeMagicStep s := h.step.trans (by simp [coreStep, hp])
  refine completes_of_outWrite h hs (by decide) (by decide) (fun _ _ => rfl) fun hw => ⟨_, rfl, ?_⟩
  refine completes_of_subtree (T := T) ⟨hw.answered, hw.opened⟩ rfl rfl rfl (by simpa using hT) fun t ht htf => ?_
  exact completes_of_rewind ht (by rw [htf]; rfl) (by rw [htf]; simpa using hsent)

/-- From every state BUILD and GENCODES make a tree in the node store and its codes, the sentinel's among them
(R200 to R211, R230 to R236). -/
theorem build_gencodes (s : State) : ∃ v t T, build s = .next v ∧ gencodes v = .next t ∧ Holds t.node t.root T ∧
    (t.code[sentinelIndex.val]).len ≠ 0 ∧ t.phase = .wmagic ∧ t.inputs = s.inputs ∧ t.out = s.out := by
  obtain ⟨v, T, hv, hT, -, hleaves⟩ := build_holds s
  obtain ⟨hnd, hle⟩ := countedLeaves_symbols s.freq
  have hsyms : T.symbols.Perm ((countedLeaves s.freq).map Prod.fst) :=
    symbols_eq_map_leaves T ▸ hleaves.map Prod.fst
  obtain ⟨c, hc, hcodes⟩ := gencodes_holds hT (hsyms.nodup_iff.mpr hnd) fun x hx => hle x (hsyms.mem_iff.mp hx)
  have hsent : indexSymbol sentinelIndex ∈ T.symbols := hsyms.mem_iff.mpr (by simp [countedLeaves]; exact .inr rfl)
  obtain ⟨hvf, -⟩ := build_frame hv
  exact ⟨v, _, T, hv, hc, hT, code_len_ne_zero hcodes hsent, rfl, by rw [hvf], by rw [hvf]⟩

/-- COUNT ends: every turn of its loop reads a byte. -/
theorem completes_of_count (h : Running s) (hp : s.phase = .count) : Completes s := by
  induction hm : s.inp.left using Nat.strong_induction_on generalizing s with
  | _ m ih =>
    refine completes_of_inRead h (h.step.trans (coreStep_of_count hp)) (fun _ _ => rfl) (fun hr => ?_) fun hx hr => ?_
    · obtain ⟨v, t, T, hv, ht, hT, hsent, htp, hti, hto⟩ := build_gencodes (s.afterEoi 8)
      refine ⟨t, by simp only [hv, andThen_next, ht], completes_of_wmagic ⟨?_, hto ▸ hr.opened⟩ htp hT hsent⟩
      exact fun x hmem => hr.answered x (hti ▸ hmem)
    · simp only
      split
      · exact ⟨_, rfl, completes_of_raise hr⟩
      · exact ⟨_, rfl, ih _ (hm ▸ left_afterRead (by decide) hx) ⟨hr.answered, hr.opened⟩ (by simpa using hp) rfl⟩

/-- Settles O59: the acceptance of the word, and the phases of the command it starts (`completes_of_count`,
`completes_of_rmagic`). -/
theorem everyCommandCompletes : Obligations.EveryCommandCompletes := by
  unfold Obligations.EveryCommandCompletes
  intro s w answers h hic hanswers
  have hb : s.status.busy = false := h.inv.idle_iff.mp h.idle
  generalize hs' : ({ s with inputs := answers.map Input.core } : State) = s'
  have hstep : step { s with inputs := .host (.regWrite 0x0 4 w) :: answers.map Input.core } =
      exec (decodeCommand w) s' := by
    rw [← hs']
    exact step_of_hostTurn (e := .regWrite 0x0 4 w) (rest := answers.map Input.core) (by rfl)
  have hb' : s'.status.busy = false := by rw [← hs']; exact hb
  have ha' : s'.aliased = false := by rw [← hs']; exact h.distinct
  have ho' : s'.out.oc = false := by rw [← hs']; exact h.opened
  have hanswered : s'.answered := fun x hx => by
    rw [← hs'] at hx
    obtain ⟨d, hd, rfl⟩ := List.mem_map.mp hx
    exact ⟨d, rfl, hanswers d hd⟩
  rw [hstep]
  unfold decodeCommand
  split
  · next hw =>
    have hstart : s'.inp.atStart = true := atStart_iff.mpr (by rw [← hs']; exact hic hw)
    obtain ⟨t, ht⟩ := completes_of_count (s := startCount (accept .compress s')) ⟨hanswered, ho'⟩ rfl
    exact ⟨_, t, launch_idle hb' ha' hstart ho', fun _ => ⟨rfl, rfl⟩, ht⟩
  split
  · obtain ⟨t, ht⟩ := completes_of_rmagic (s := startReadMagic (accept .decompress s')) ⟨hanswered, ho'⟩ rfl
    exact ⟨_, t, launch_idle hb' ha' rfl ho', fun _ => ⟨rfl, rfl⟩, ht⟩
  · next h1 h2 =>
    exact ⟨_, _, execIllegal_idle (w := w) hb', fun hw => absurd hw (not_or.mpr ⟨h1, h2⟩), reaches_refl _,
      rfl, rfl, rfl⟩

end Sys2Proof.Machine

/-! ## Independence: nothing of an earlier command is read (40_commands.md R162)

Two machines are alike when they agree on all but the internal memories, and on those as far as the running phase still reads
them (`LiveAgree`). Every step of alike machines ends alike (`step_alike`), and a command's acceptance makes two idle
machines alike (`exec_decodeCommand_alike`). -/
namespace Sys2Proof.Machine

variable {s t u v : State}

/-! ### Outcomes that go on alike -/

/-- Both outcomes go on, to related values, or both stop for the same reason. -/
inductive Simulates {α β : Type} (R : α → β → Prop) :
    Host.Outcome α Fault Refusal → Host.Outcome β Fault Refusal → Prop where
  | next {a : α} {b : β} (h : R a b) : Simulates R (.next a) (.next b)
  | fault (r : Fault) : Simulates R (.fault r) (.fault r)
  | refused (r : Refusal) : Simulates R (.refused r) (.refused r)

theorem Simulates.ite {α β : Type} {R : α → β → Prop} {c : Prop} [Decidable c]
    {x y : Host.Outcome α Fault Refusal} {x' y' : Host.Outcome β Fault Refusal}
    (hx : c → Simulates R x x') (hy : ¬ c → Simulates R y y') :
    Simulates R (if c then x else y) (if c then x' else y') := by
  split
  · next h => exact hx h
  · next h => exact hy h

/-! ### What alike machines agree on -/

/-- The machines agree on the build constants, the ports, the turns to come, and the model's own host value and free-value
counter. -/
structure SamePorts (s u : State) : Prop where
  magic : u.magic = s.magic
  wb : u.wb = s.wb
  inp : u.inp = s.inp
  out : u.out = s.out
  aliased : u.aliased = s.aliased
  inputs : u.inputs = s.inputs
  hostData : u.hostData = s.hostData
  freeIdx : u.freeIdx = s.freeIdx

/-- The machines agree on everything outside the internal memories and their registers (FREQ, NODE, CODE, Q, HSTACK, TOTAL,
NNODES, ROOT and CUR). -/
structure SameOutside (s u : State) : Prop extends SamePorts s u where
  status : u.status = s.status
  errinfo : u.errinfo = s.errinfo
  op : u.op = s.op
  phase : u.phase = s.phase
  pending : u.pending = s.pending
  trace : u.trace = s.trace

/-- Two node-store entries agree on what is read of them, in a store of `n` allocated entries: an internal node's left child
if `left` says that it is filled, and its right child if `right` does; a leaf's L and R are never read (R45). -/
structure EntriesMatch (n : Nat) (left right : Prop) (e e' : NodeEntry) : Prop where
  isLeaf : e'.isLeaf = e.isLeaf
  sym : e'.sym = e.sym
  w : e'.w = e.w
  l : e.isLeaf = false → left → e'.l = e.l ∧ e.l.val < n
  r : e.isLeaf = false → right → e'.r = e.r ∧ e.r.val < n

/-- The first `n` entries of two node stores agree on what is read of them; `k` are the nodes whose subtrees READ_HEADER has
not read yet (R49, R254). -/
def StoresMatch (n : Nat) (k : List Frame) (v v' : Vector NodeEntry 513) : Prop :=
  ∀ j : NodeIdx, j.val < n →
    EntriesMatch n ({ node := j, side := false } ∉ k) (∀ f ∈ k, f.node ≠ j) v[j.val] v'[j.val]

/-- The machines agree on what the running phase, and those that follow it, still read of the memories. No run rests in BUILD
or GENCODES (R12). -/
def LiveAgree (s u : State) : Prop :=
  match s.phase with
  | .idle | .close | .rmagic => True
  | .count => u.freq = s.freq ∧ u.total = s.total
  | .build | .gencodes => False
  | .wmagic => u.code = s.code ∧ u.root = s.root ∧ s.root.val < s.nnodes ∧ StoresMatch s.nnodes [] s.node u.node
  | .wheader => u.code = s.code ∧ u.hstack = s.hstack ∧ (∀ f ∈ s.hstack, f.node.val < s.nnodes) ∧
      StoresMatch s.nnodes [] s.node u.node
  | .rewind | .encode => u.code = s.code
  | .rheader => u.nnodes = s.nnodes ∧ u.hstack = s.hstack ∧ (∀ f ∈ s.hstack, f.node.val < s.nnodes) ∧
      StoresMatch s.nnodes s.hstack s.node u.node
  | .decode => u.root = s.root ∧ s.root.val < s.nnodes ∧ u.cur = s.cur ∧ s.cur.val < s.nnodes ∧
      StoresMatch s.nnodes [] s.node u.node

structure Alike (s u : State) : Prop extends SameOutside s u where
  live : LiveAgree s u

theorem SameOutside.alike_close (h : SameOutside s u) (hp : s.phase = .close) : Alike s u :=
  ⟨h, by simp [LiveAgree, hp]⟩

theorem SameOutside.alike_idle (h : SameOutside s u) (hp : s.phase = .idle) : Alike s u :=
  ⟨h, by simp [LiveAgree, hp]⟩

theorem SameOutside.alike_encode (h : SameOutside s u) (hp : s.phase = .encode) (hc : u.code = s.code) : Alike s u :=
  ⟨h, by simpa [LiveAgree, hp] using hc⟩

/-- Error entry leaves nothing to read of the memories but what OutClose needs, which is nothing (R320). -/
theorem SameOutside.raise (h : SameOutside s u) (e : ErrCode) (info : Word) : Alike (raise e info s) (raise e info u) :=
  SameOutside.alike_close
    { h with status := congrArg (Status.withError · e) h.status, errinfo := rfl, phase := rfl, pending := rfl } rfl

theorem simulates_raise {e : ErrCode} {info : Word} (h : SameOutside s u) :
    Simulates Alike (.next (raise e info s)) (.next (raise e info u)) :=
  .next (h.raise e info)

/-! ### Transactions -/

theorem SameOutside.draw (h : SameOutside s u) : u.draw = s.draw := by
  simp only [State.draw, h.inputs]

theorem SameOutside.turn (h : SameOutside s u) : SameOutside s.turn u.turn := by
  unfold State.turn
  rw [h.inputs]
  split
  · exact { h with inputs := rfl }
  · exact h

/-- A transaction leaves the memories alone. -/
theorem LiveAgree.transacts {x y : Transaction} (h : LiveAgree s u) (hs : Issues s t x) (hu : Issues u v y) :
    LiveAgree t v := by
  rw [hs.frame, hu.frame]
  exact h

/-- Alike machines stay alike when the same transaction is issued with the same effect on the ports. -/
theorem Alike.transacted {x : Transaction} (h : Alike s u) (ht : Issues s t x) (hv : Issues u v x)
    (hturn : t.inputs = s.turn.inputs ∧ v.inputs = u.turn.inputs)
    (hports : v.inp = t.inp ∧ v.out = t.out ∧ v.freeIdx = t.freeIdx) : Alike t v where
  live := h.live.transacts ht hv
  inp := hports.1
  out := hports.2.1
  freeIdx := hports.2.2
  inputs := by rw [hturn.1, hturn.2, h.turn.inputs]
  trace := by rw [ht.trace, hv.trace, h.trace]
  magic := by rw [ht.frame, hv.frame]; exact h.magic
  wb := by rw [ht.frame, hv.frame]; exact h.wb
  aliased := by rw [ht.frame, hv.frame]; exact h.aliased
  hostData := by rw [ht.frame, hv.frame]; exact h.hostData
  status := by rw [ht.frame, hv.frame]; exact h.status
  errinfo := by rw [ht.frame, hv.frame]; exact h.errinfo
  op := by rw [ht.frame, hv.frame]; exact h.op
  phase := by rw [ht.frame, hv.frame]; exact h.phase
  pending := by rw [ht.frame, hv.frame]; exact h.pending

/-- Two transactions with the same answer and effect, and what follows them. -/
theorem simulates_of_answers {A : Type} {x : Transaction} {a : A} {p q : Host.Outcome (A × State) Fault Refusal}
    {f g : A × State → Host.Outcome State Fault Refusal} (h : Alike s u)
    (hf : Issues s t x → Alike t v → Simulates Alike (f (a, t)) (g (a, v)))
    (hp : p = .next (a, t)) (hq : q = .next (a, v)) (ht : Issues s t x) (hv : Issues u v x)
    (hturn : t.inputs = s.turn.inputs ∧ v.inputs = u.turn.inputs)
    (hports : v.inp = t.inp ∧ v.out = t.out ∧ v.freeIdx = t.freeIdx) :
    Simulates Alike (andThen p f) (andThen q g) := by
  rw [hp, hq]
  exact hf ht (h.transacted ht hv hturn hports)

theorem simulates_inRead {n : Nat} {f g : InAnswer × State → Host.Outcome State Fault Refusal} (h : Alike s u)
    (hf : ∀ a t v, Issues s t (.inRead n a) → Alike t v → Simulates Alike (f (a, t)) (g (a, v))) :
    Simulates Alike (andThen (inRead n s) f) (andThen (inRead n u) g) := by
  have hd := h.draw
  cases hds : s.draw with
  | silent =>
    rw [inRead_silent hds, inRead_silent (hd.trans hds)]
    exact .fault _
  | fault c e =>
    have hx := inRead_fault (n := n) hds
    have hy := inRead_fault (n := n) (hd.trans hds)
    exact simulates_of_answers h (hf _ _ _) hx hy (inRead_transacts hx).toIssues (inRead_transacts hy).toIssues
      ⟨rfl, rfl⟩ ⟨congrArg (InPort.afterFault · e) h.inp, h.turn.out, h.turn.freeIdx⟩
  | serve =>
    cases hxs : s.inp.exhausted n with
    | true =>
      have hx := inRead_eoi hds hxs
      have hy := inRead_eoi (hd.trans hds) (h.inp ▸ hxs)
      exact simulates_of_answers h (hf _ _ _) hx hy (inRead_transacts hx).toIssues (inRead_transacts hy).toIssues
        (by simp) (by simp [h.inp, h.out, h.freeIdx])
    | false =>
      have hx := inRead_value hds hxs
      have hy := inRead_value (hd.trans hds) (h.inp ▸ hxs)
      rw [congrArg (InPort.field · n) h.inp] at hy
      exact simulates_of_answers h (hf _ _ _) hx hy (inRead_transacts hx).toIssues (inRead_transacts hy).toIssues
        (by simp) (by simp [h.inp, h.out, h.freeIdx])

theorem simulates_inReset {f g : AckAnswer × State → Host.Outcome State Fault Refusal} (h : Alike s u)
    (hf : ∀ a t v, Issues s t (.inReset a) → Alike t v → Simulates Alike (f (a, t)) (g (a, v))) :
    Simulates Alike (andThen (inReset s) f) (andThen (inReset u) g) := by
  have hd := h.draw
  cases hds : s.draw with
  | silent =>
    rw [inReset_silent hds, inReset_silent (hd.trans hds)]
    exact .fault _
  | fault c e =>
    have hx := inReset_fault hds
    have hy := inReset_fault (hd.trans hds)
    exact simulates_of_answers h (hf _ _ _) hx hy (inReset_transacts hx).toIssues (inReset_transacts hy).toIssues
      ⟨rfl, rfl⟩ ⟨congrArg (InPort.afterFault · e) h.inp, h.turn.out, h.turn.freeIdx⟩
  | serve =>
    have hx := inReset_ok hds
    have hy := inReset_ok (hd.trans hds)
    exact simulates_of_answers h (hf _ _ _) hx hy (inReset_transacts hx).toIssues (inReset_transacts hy).toIssues
      ⟨rfl, rfl⟩ ⟨congrArg (fun p : InPort => { p with ic := 0, eoi := false }) h.inp, h.turn.out, h.turn.freeIdx⟩

theorem outWrite_badWidth {n v : Nat} (hn : n = 0 ∨ 256 < n) : outWrite n v s = .fault .writeWidth := by
  simp [outWrite, hn]

theorem outWrite_closed {n v : Nat} (hn : ¬ (n = 0 ∨ 256 < n)) (ho : s.out.oc = true) :
    outWrite n v s = .refused .outputNotOpen := by
  simp [outWrite, hn, ho]

theorem outClose_closed (ho : s.out.oc = true) : outClose s = .refused .outputNotOpen := by
  simp [outClose, ho]

theorem simulates_outWrite {n w : Nat} {f g : AckAnswer × State → Host.Outcome State Fault Refusal} (h : Alike s u)
    (hf : ∀ a t v, Issues s t (.outWrite n w a) → Alike t v → Simulates Alike (f (a, t)) (g (a, v))) :
    Simulates Alike (andThen (outWrite n w s) f) (andThen (outWrite n w u) g) := by
  by_cases hn : n = 0 ∨ 256 < n
  · rw [outWrite_badWidth hn, outWrite_badWidth hn]
    exact .fault _
  cases ho : s.out.oc with
  | true =>
    rw [outWrite_closed hn ho, outWrite_closed hn (h.out ▸ ho)]
    exact .refused _
  | false =>
    have h1 : 1 ≤ n := by omega
    have h2 : n ≤ 256 := by omega
    have ho' : u.out.oc = false := h.out ▸ ho
    have hd := h.draw
    cases hds : s.draw with
    | silent =>
      rw [outWrite_silent h1 h2 ho hds, outWrite_silent h1 h2 ho' (hd.trans hds)]
      exact .fault _
    | fault c e =>
      have hx := outWrite_fault (v := w) h1 h2 ho hds
      have hy := outWrite_fault (v := w) h1 h2 ho' (hd.trans hds)
      exact simulates_of_answers h (hf _ _ _) hx hy (outWrite_transacts hx).toIssues (outWrite_transacts hy).toIssues
        ⟨rfl, rfl⟩ ⟨h.turn.inp, congrArg (fun p : OutPort => { p with ob := p.ob ++ e.bits }) h.out, h.turn.freeIdx⟩
    | serve =>
      have hx := outWrite_ok (v := w) h1 h2 ho hds
      have hy := outWrite_ok (v := w) h1 h2 ho' (hd.trans hds)
      exact simulates_of_answers h (hf _ _ _) hx hy (outWrite_transacts hx).toIssues (outWrite_transacts hy).toIssues
        (by simp) (by simp [h.inp, h.out, h.freeIdx])

theorem simulates_outClose {f g : AckAnswer × State → Host.Outcome State Fault Refusal} (h : Alike s u)
    (hf : ∀ a t v, Issues s t (.outClose a) → Alike t v → Simulates Alike (f (a, t)) (g (a, v))) :
    Simulates Alike (andThen (outClose s) f) (andThen (outClose u) g) := by
  cases ho : s.out.oc with
  | true =>
    rw [outClose_closed ho, outClose_closed (h.out ▸ ho)]
    exact .refused _
  | false =>
    have ho' : u.out.oc = false := h.out ▸ ho
    have hd := h.draw
    cases hds : s.draw with
    | silent =>
      rw [outClose_silent ho hds, outClose_silent ho' (hd.trans hds)]
      exact .fault _
    | fault c e =>
      have hx := outClose_fault ho hds
      have hy := outClose_fault ho' (hd.trans hds)
      exact simulates_of_answers h (hf _ _ _) hx hy (outClose_issues hx) (outClose_issues hy) ⟨rfl, rfl⟩
        ⟨h.turn.inp, congrArg (fun p : OutPort => { p with ob := p.ob ++ e.bits, oc := e.closed, sink := e.sink }) h.out,
          h.turn.freeIdx⟩
    | serve =>
      have hx := outClose_ok ho hds
      have hy := outClose_ok ho' (hd.trans hds)
      exact simulates_of_answers h (hf _ _ _) hx hy (outClose_issues hx) (outClose_issues hy) ⟨rfl, rfl⟩
        ⟨h.turn.inp, congrArg OutPort.closed h.out, h.turn.freeIdx⟩

/-! ### Node stores -/

theorem EntriesMatch.mono {n n' : Nat} {left right left' right' : Prop} {e e' : NodeEntry}
    (h : EntriesMatch n left right e e') (hn : n ≤ n') (hleft : left' → left) (hright : right' → right) :
    EntriesMatch n' left' right' e e' where
  isLeaf := h.isLeaf
  sym := h.sym
  w := h.w
  l hi hl := (h.l hi (hleft hl)).imp_right (Nat.lt_of_lt_of_le · hn)
  r hi hr := (h.r hi (hright hr)).imp_right (Nat.lt_of_lt_of_le · hn)

/-- Writing one entry, which may be the next one, keeps the stores matching when the entries written match, and no other
node's children are said to be filled. -/
theorem StoresMatch.set {n n' : Nat} {k k' : List Frame} {x x' : Vector NodeEntry 513} {i : NodeIdx} {e e' : NodeEntry}
    (h : StoresMatch n k x x') (hn : n ≤ n') (hlt : ∀ j : NodeIdx, j ≠ i → j.val < n' → j.val < n)
    (hk : ∀ f ∈ k, f.node ≠ i → f ∈ k')
    (he : EntriesMatch n' ({ node := i, side := false } ∉ k') (∀ f ∈ k', f.node ≠ i) e e') :
    StoresMatch n' k' (x.set i.val e) (x'.set i.val e') := by
  intro j hj
  by_cases hji : j = i
  · subst hji
    simpa using he
  · have hne : i.val ≠ j.val := fun hv => hji (Fin.ext hv.symm)
    rw [Vector.getElem_set_ne _ _ hne, Vector.getElem_set_ne _ _ hne]
    exact (h j (hlt j hji hj)).mono hn (fun hl hf => hl (hk _ hf hji))
      fun hr f hf hfj => hr f (hk f hf (hfj ▸ hji)) hfj

/-- The next entry is written (R200). -/
theorem StoresMatch.push {n : Nat} {k k' : List Frame} {x x' : Vector NodeEntry 513} {i : NodeIdx} {e e' : NodeEntry}
    (h : StoresMatch n k x x') (hi : i.val = n) (hk : k ⊆ k')
    (he : EntriesMatch (n + 1) ({ node := i, side := false } ∉ k') (∀ f ∈ k', f.node ≠ i) e e') :
    StoresMatch (n + 1) k' (x.set i.val e) (x'.set i.val e') := by
  refine h.set (Nat.le_succ n) (fun j hji hj => ?_) (fun f hf _ => hk hf) he
  have hne : j.val ≠ i.val := fun hv => hji (Fin.ext hv)
  omega

/-- Two leaves match, whatever they have as children (R45). -/
theorem entriesMatch_leaf {n : Nat} {left right : Prop} {e e' : NodeEntry} {sym : Symbol} {w : Nat} :
    EntriesMatch n left right { e with isLeaf := true, sym := sym, w := w }
      { e' with isLeaf := true, sym := sym, w := w } :=
  ⟨rfl, rfl, rfl, nofun, nofun⟩

/-! ### BUILD -/

/-- BUILD's two machines agree on Q, and on the entries that are allocated. -/
structure BuildAgree (s u : State) : Prop where
  nnodes : u.nnodes = s.nnodes
  q : u.q = s.q
  allocated : ∀ i ∈ s.q, i.val < s.nnodes
  stores : StoresMatch s.nnodes [] s.node u.node

/-- The machines agree on the tree at ROOT. -/
structure TreeAgree (s u : State) : Prop where
  root : u.root = s.root
  allocated : s.root.val < s.nnodes
  stores : StoresMatch s.nnodes [] s.node u.node

theorem seedLeaf_eq_some {x : Symbol × Nat} (h : seedLeaf x s = some t) :
    ∃ i : NodeIdx, i.val = s.nnodes ∧
      t = { s.setLeaf i x.1 x.2 with nnodes := s.nnodes + 1, q := s.q ++ [i] } := by
  unfold seedLeaf at h
  split at h
  · cases h
  · next ha =>
    obtain ⟨hn, hr⟩ := alloc_eq_some ha
    obtain ⟨rfl, rfl⟩ := Prod.mk.inj hr
    obtain rfl := Option.some.inj h
    exact ⟨_, rfl, rfl⟩

/-- One more node in Q, at the next entry. -/
theorem BuildAgree.push {i : NodeIdx} {q : List NodeIdx} {e e' : NodeEntry} (h : BuildAgree s u) (hi : i.val = s.nnodes)
    (hq : q ⊆ s.q) (he : EntriesMatch (s.nnodes + 1) True True e e') :
    BuildAgree { s.setNode i e with nnodes := s.nnodes + 1, q := q ++ [i] }
      { u.setNode i e' with nnodes := s.nnodes + 1, q := q ++ [i] } where
  nnodes := rfl
  q := rfl
  allocated j hj := by
    obtain hj | hj := List.mem_append.mp hj
    · exact Nat.lt_succ_of_lt (h.allocated j (hq hj))
    · rw [List.mem_singleton.mp hj, hi]
      exact Nat.lt_succ_self _
  stores := h.stores.push hi (List.Subset.refl _) (he.mono (Nat.le_refl _) (fun _ => trivial) fun _ => trivial)

theorem BuildAgree.seedLeaf {x : Symbol × Nat} (h : BuildAgree s u) (ht : seedLeaf x s = some t)
    (hv : seedLeaf x u = some v) : BuildAgree t v := by
  obtain ⟨i, hi, rfl⟩ := seedLeaf_eq_some ht
  obtain ⟨j, hj, rfl⟩ := seedLeaf_eq_some hv
  obtain rfl : i = j := Fin.ext (by rw [hi, hj, h.nnodes])
  rw [h.nnodes, h.q]
  exact h.push hi (List.Subset.refl _) entriesMatch_leaf

theorem BuildAgree.seedAll {l : List (Symbol × Nat)} (h : BuildAgree s u) (ht : seedAll l s = some t)
    (hv : seedAll l u = some v) : BuildAgree t v := by
  induction l generalizing s u with
  | nil =>
    cases ht
    cases hv
    exact h
  | cons x l ih =>
    unfold Machine.seedAll at ht hv
    split at ht
    · cases ht
    · next hs =>
      split at hv
      · cases hv
      · next hu => exact ih (h.seedLeaf hs hu) ht hv

theorem startBuild_eq_next (h : startBuild s = .next t) :
    seedAll (seedLeaves s.freq) { s with phase := .build, nnodes := 0, q := [] } = some t := by
  unfold startBuild at h
  split at h
  · next ht => rw [ht, Host.Outcome.next.inj h]
  · cases h

/-- Extraction depends on the weights in Q alone (R204). -/
theorem firstRanked_congr {w w' : NodeIdx → Nat} {q : List NodeIdx} (h : ∀ i ∈ q, w' i = w i) :
    firstRanked w' q = firstRanked w q := by
  induction q with
  | nil => rfl
  | cons i q ih =>
    have hq := ih fun j hj => h j (List.mem_cons_of_mem i hj)
    cases hf : firstRanked w q with
    | none => simp only [firstRanked, hq, hf]
    | some j =>
      have hi := h i List.mem_cons_self
      have hj := h j (List.mem_cons_of_mem i (firstRanked_mem hf))
      simp only [firstRanked, hq, hf, ranksBefore, hi, hj]
      rfl

theorem BuildAgree.weight {i : NodeIdx} (h : BuildAgree s u) (hi : i ∈ s.q) : (u.nodeAt i).w = (s.nodeAt i).w :=
  (h.stores i (h.allocated i hi)).w

theorem BuildAgree.mergeStep (h : BuildAgree s u) (ht : mergeStep s = .next t) (hv : mergeStep u = .next v) :
    BuildAgree t v := by
  obtain ⟨a, c, hn, ha, hc, hfa, hfc, rfl⟩ := mergeStep_cases ht
  obtain ⟨a', c', hn', -, -, hfa', hfc', rfl⟩ := mergeStep_cases hv
  rw [h.q] at hfa' hfc'
  obtain rfl : a = a' := Option.some.inj
    ((hfa.symm.trans (firstRanked_congr fun i hi => (h.weight hi).symm)).trans hfa')
  obtain rfl : c = c' := Option.some.inj
    ((hfc.symm.trans (firstRanked_congr fun i hi => (h.weight (List.mem_of_mem_erase hi)).symm)).trans hfc')
  have hcq := List.mem_of_mem_erase hc
  have hentry : EntriesMatch (s.nnodes + 1) True True (mergedNode s a c) (mergedNode u a c) :=
    ⟨rfl, rfl, congrArg₂ (· + ·) (h.weight ha) (h.weight hcq),
      fun _ _ => ⟨rfl, Nat.lt_succ_of_lt (h.allocated a ha)⟩,
      fun _ _ => ⟨rfl, Nat.lt_succ_of_lt (h.allocated c hcq)⟩⟩
  have hpush := h.push (i := ⟨s.nnodes, hn⟩) (q := (s.q.erase a).erase c) rfl
    (fun i hi => List.mem_of_mem_erase (List.mem_of_mem_erase hi)) hentry
  simp only [h.nnodes, h.q]
  exact hpush

theorem BuildAgree.mergeAll {size : Nat} (h : BuildAgree s u) (ht : mergeAll size s = .next t)
    (hv : mergeAll size u = .next v) : TreeAgree t v := by
  induction size generalizing s u with
  | zero => cases ht
  | succ size ih =>
    unfold Machine.mergeAll at ht hv
    rw [h.q] at hv
    rcases hq : s.q with _ | ⟨r, _ | ⟨i, q⟩⟩ <;> simp only [hq] at ht hv
    · cases ht
    · obtain rfl := Host.Outcome.next.inj ht
      obtain rfl := Host.Outcome.next.inj hv
      exact ⟨rfl, h.allocated r (by simp [hq]), h.stores⟩
    · obtain ⟨s', hs, ht⟩ := andThen_eq_next ht
      obtain ⟨u', hu, hv⟩ := andThen_eq_next hv
      exact ih (h.mergeStep hs hu) ht hv

/-- BUILD of the same counts makes the same tree, whatever the node store held (R200 to R211). -/
theorem build_treeAgree (hf : u.freq = s.freq) (ht : build s = .next t) (hv : build u = .next v) : TreeAgree t v := by
  obtain ⟨s', hs, ht⟩ := andThen_eq_next ht
  obtain ⟨u', hu, hv⟩ := andThen_eq_next hv
  have hcounts := (congrArg (fun f => seedAll (seedLeaves f) { u with phase := .build, nnodes := 0, q := [] })
    hf.symm).trans (startBuild_eq_next hu)
  have hstart : BuildAgree { s with phase := .build, nnodes := 0, q := [] }
      { u with phase := .build, nnodes := 0, q := [] } :=
    ⟨rfl, rfl, by simp, fun j hj => absurd hj (Nat.not_lt_zero _)⟩
  have hseeded := hstart.seedAll (startBuild_eq_next hs) hcounts
  rw [hseeded.q] at hv
  exact hseeded.mergeAll ht hv

/-! ### GENCODES -/

theorem setCode_code {sym : Symbol} {p : List Bool} (hc : u.code = s.code) (ht : setCode sym p s = .next t)
    (hv : setCode sym p u = .next v) : v.code = t.code := by
  unfold setCode at ht hv
  split at ht
  · next hs =>
    rw [dif_pos hs] at hv
    split at ht
    · next hp =>
      rw [dif_pos hp] at hv
      obtain rfl := Host.Outcome.next.inj ht
      obtain rfl := Host.Outcome.next.inj hv
      simp only [hc]
    · cases ht
  · cases ht

theorem visit_leaf {levels : Nat} {i : NodeIdx} {p : List Bool} (h : (s.nodeAt i).isLeaf = true) :
    visit (levels + 1) i p s = setCode (s.nodeAt i).sym p s := by
  simp [visit, h]

theorem visit_node {levels : Nat} {i : NodeIdx} {p : List Bool} (h : (s.nodeAt i).isLeaf = false) :
    visit (levels + 1) i p s =
      andThen (visit levels (s.nodeAt i).l (p ++ [false]) s) (visit levels (s.nodeAt i).r (p ++ [true])) := by
  simp [visit, h]

theorem visit_code {n levels : Nat} {i : NodeIdx} {p : List Bool} (hm : StoresMatch n [] s.node u.node) (hi : i.val < n)
    (hc : u.code = s.code) (ht : visit levels i p s = .next t) (hv : visit levels i p u = .next v) :
    v.code = t.code := by
  induction levels generalizing s u t v i p with
  | zero => cases ht
  | succ levels ih =>
    have he : EntriesMatch n _ _ (s.nodeAt i) (u.nodeAt i) := hm i hi
    cases hl : (s.nodeAt i).isLeaf with
    | true =>
      rw [visit_leaf hl] at ht
      rw [visit_leaf (he.isLeaf.trans hl), he.sym] at hv
      exact setCode_code hc ht hv
    | false =>
      obtain ⟨hleft, hln⟩ := he.l hl (by simp)
      obtain ⟨hright, hrn⟩ := he.r hl (by simp)
      rw [visit_node hl] at ht
      rw [visit_node (he.isLeaf.trans hl), hleft, hright] at hv
      obtain ⟨s', hs, ht⟩ := andThen_eq_next ht
      obtain ⟨u', hu, hv⟩ := andThen_eq_next hv
      have hsn : s'.node = s.node := by rw [visit_frame _ hs]
      have hun : u'.node = u.node := by rw [visit_frame _ hu]
      exact ih (by rwa [hsn, hun]) hrn (ih hm hln hc hs hu) ht hv

theorem assignCodes_leaf (h : (s.nodeAt s.root).isLeaf = true) :
    assignCodes s = setCode (s.nodeAt s.root).sym [false] s := by
  simp [assignCodes, h]

theorem assignCodes_node (h : (s.nodeAt s.root).isLeaf = false) : assignCodes s = visit (hstackCap + 1) s.root [] s := by
  simp [assignCodes, h]

theorem assignCodes_code (h : TreeAgree s u) (hc : u.code = s.code) (ht : assignCodes s = .next t)
    (hv : assignCodes u = .next v) : v.code = t.code := by
  have he : EntriesMatch s.nnodes _ _ (s.nodeAt s.root) (u.nodeAt s.root) := h.stores s.root h.allocated
  rw [← h.root] at he
  cases hl : (s.nodeAt s.root).isLeaf with
  | true =>
    rw [assignCodes_leaf hl] at ht
    rw [assignCodes_leaf (he.isLeaf.trans (h.root ▸ hl)), he.sym, h.root] at hv
    exact setCode_code hc ht hv
  | false =>
    rw [assignCodes_node hl] at ht
    rw [assignCodes_node (he.isLeaf.trans (h.root ▸ hl)), h.root] at hv
    exact visit_code h.stores h.allocated hc ht hv

/-- GENCODES of the same tree gives the same code table (R230 to R233). -/
theorem gencodes_code (h : TreeAgree s u) (ht : gencodes s = .next t) (hv : gencodes u = .next v) :
    v.code = t.code := by
  obtain ⟨s', hs, ht⟩ := andThen_eq_next ht
  obtain ⟨u', hu, hv⟩ := andThen_eq_next hv
  obtain rfl := Host.Outcome.next.inj ht
  obtain rfl := Host.Outcome.next.inj hv
  have hcode : u'.code = s'.code :=
    assignCodes_code (s := startGencodes s) (u := startGencodes u) ⟨h.root, h.allocated, h.stores⟩ rfl hs hu
  exact hcode

/-! ### The steps of alike machines -/

theorem LiveAgree.count (h : LiveAgree s u) (hp : s.phase = .count) : u.freq = s.freq ∧ u.total = s.total := by
  simpa [LiveAgree, hp] using h

theorem LiveAgree.wmagic (h : LiveAgree s u) (hp : s.phase = .wmagic) : u.code = s.code ∧ TreeAgree s u := by
  obtain ⟨hc, hr, hlt, hm⟩ : u.code = s.code ∧ u.root = s.root ∧ s.root.val < s.nnodes ∧
      StoresMatch s.nnodes [] s.node u.node := by simpa [LiveAgree, hp] using h
  exact ⟨hc, hr, hlt, hm⟩

theorem LiveAgree.wheader (h : LiveAgree s u) (hp : s.phase = .wheader) :
    u.code = s.code ∧ u.hstack = s.hstack ∧ (∀ f ∈ s.hstack, f.node.val < s.nnodes) ∧
      StoresMatch s.nnodes [] s.node u.node := by
  simpa [LiveAgree, hp] using h

theorem LiveAgree.rewind (h : LiveAgree s u) (hp : s.phase = .rewind) : u.code = s.code := by
  simpa [LiveAgree, hp] using h

theorem LiveAgree.encode (h : LiveAgree s u) (hp : s.phase = .encode) : u.code = s.code := by
  simpa [LiveAgree, hp] using h

theorem LiveAgree.rheader (h : LiveAgree s u) (hp : s.phase = .rheader) :
    u.nnodes = s.nnodes ∧ u.hstack = s.hstack ∧ (∀ f ∈ s.hstack, f.node.val < s.nnodes) ∧
      StoresMatch s.nnodes s.hstack s.node u.node := by
  simpa [LiveAgree, hp] using h

theorem LiveAgree.decode (h : LiveAgree s u) (hp : s.phase = .decode) :
    TreeAgree s u ∧ u.cur = s.cur ∧ s.cur.val < s.nnodes := by
  obtain ⟨hr, hlt, hc, hcl, hm⟩ : u.root = s.root ∧ s.root.val < s.nnodes ∧ u.cur = s.cur ∧
      s.cur.val < s.nnodes ∧
      StoresMatch s.nnodes [] s.node u.node := by simpa [LiveAgree, hp] using h
  exact ⟨⟨hr, hlt, hm⟩, hc, hcl⟩

theorem build_gencodes_alike {s' u' : State} (h : Alike s u) (hp : s.phase = .count) (hs : build s = .next s')
    (ht : gencodes s' = .next t) (hu : build u = .next u') (hv : gencodes u' = .next v) : Alike t v := by
  have htree := build_treeAgree (h.live.count hp).1 hs hu
  have hcode := gencodes_code htree ht hv
  obtain ⟨hsf, -⟩ := build_frame hs
  obtain ⟨huf, -⟩ := build_frame hu
  obtain ⟨hr, hlt, hm⟩ := htree
  have htf := gencodes_frame ht
  have hvf := gencodes_frame hv
  generalize t.code = c at hcode htf
  rw [hcode] at hvf
  rw [htf, hvf]
  refine ⟨?_, rfl, hr, hlt, hm⟩
  rw [hsf, huf]
  exact { h with phase := rfl, pending := rfl }

theorem countStep_alike (h : Alike s u) (hp : s.phase = .count) : Simulates Alike (countStep s) (countStep u) := by
  refine simulates_inRead h fun a t v ht hv => ?_
  have htp : t.phase = .count := ht.phase.trans hp
  cases a with
  | fault c => exact simulates_raise hv.toSameOutside
  | eoi =>
    obtain ⟨t', x, -, hb, hg, -⟩ := build_gencodes t
    obtain ⟨v', y, -, hb', hg', -⟩ := build_gencodes v
    simp only [hb, hb', andThen_next, hg, hg']
    exact .next (build_gencodes_alike hv htp hb hg hb' hg')
  | val n =>
    obtain ⟨hfreq, htotal⟩ := hv.live.count htp
    simp only [htotal, hv.wb]
    refine .ite (fun _ => simulates_raise hv.toSameOutside) fun _ => .next ⟨{ hv with }, ?_⟩
    simp only [LiveAgree, countByte_phase, htp, countByte_freq, countByte_total, htotal]
    exact ⟨by simp only [hfreq], trivial⟩

theorem writeMagicStep_alike (h : Alike s u) (hp : s.phase = .wmagic) :
    Simulates Alike (writeMagicStep s) (writeMagicStep u) := by
  unfold writeMagicStep
  rw [h.magic]
  refine simulates_outWrite h fun a t v ht hv => ?_
  obtain ⟨hc, hr, hlt, hm⟩ := hv.live.wmagic (ht.phase.trans hp)
  cases a with
  | fault c => exact simulates_raise hv.toSameOutside
  | ok =>
    refine .next ⟨{ hv with phase := rfl, pending := rfl }, hc, ?_, ?_, hm⟩
    · simp [hr]
    · simpa using hlt

theorem writeNodeToken_alike (h : Alike s u) (hp : s.phase = .wheader) {f : Frame} {rest : List Frame}
    (hk : s.hstack = f :: rest) (hl : (s.nodeAt f.node).isLeaf = false) :
    Simulates Alike (writeNodeToken s) (writeNodeToken u) := by
  obtain ⟨-, hku, hall, hm⟩ := h.live.wheader hp
  have he : EntriesMatch s.nnodes _ _ (s.nodeAt f.node) (u.nodeAt f.node) := hm f.node (hall f (by simp [hk]))
  obtain ⟨hleft, hln⟩ := he.l hl (by simp)
  obtain ⟨hright, hrn⟩ := he.r hl (by simp)
  simp only [writeNodeToken, hku, hk, hleft, hright]
  refine simulates_outWrite h fun a t v ht hv => ?_
  obtain ⟨hc, -, -, hm⟩ := hv.live.wheader (ht.phase.trans hp)
  have hn : t.nnodes = s.nnodes := by rw [ht.frame]
  cases a with
  | fault c => exact simulates_raise hv.toSameOutside
  | ok =>
    refine .next ⟨{ hv with }, ?_⟩
    simp only [LiveAgree, ht.phase.trans hp]
    refine ⟨hc, trivial, ?_, hm⟩
    intro g hg
    simp only [List.mem_cons] at hg
    rw [hn]
    obtain rfl | rfl | hg := hg
    · exact hln
    · exact hrn
    · exact hall g (by simp [hk, hg])

theorem headerWritten_alike {rest : List Frame} (h : Alike s u) (hp : s.phase = .wheader)
    (hall : ∀ f ∈ rest, f.node.val < s.nnodes) : Alike (headerWritten rest s) (headerWritten rest u) := by
  obtain ⟨hc, -, -, hm⟩ := h.live.wheader hp
  refine ⟨{ h with phase := rfl, pending := rfl }, ?_⟩
  cases rest with
  | nil => exact hc
  | cons f rest => exact ⟨hc, rfl, hall, hm⟩

theorem writeLeafToken_alike {sym : Symbol} (h : Alike s u) (hp : s.phase = .wheader) :
    Simulates Alike (writeLeafToken sym s) (writeLeafToken sym u) := by
  obtain ⟨-, hku, hall, -⟩ := h.live.wheader hp
  unfold writeLeafToken
  rw [hku, h.pending]
  cases hk : s.hstack with
  | nil => exact .refused _
  | cons f rest =>
    refine .ite (fun _ => ?_) fun _ => ?_ <;> refine simulates_outWrite h fun a t v ht hv => ?_
    · have hn : t.nnodes = s.nnodes := by rw [ht.frame]
      cases a with
      | fault c => exact simulates_raise hv.toSameOutside
      | ok => exact .next (headerWritten_alike hv (ht.phase.trans hp) fun g hg => hn ▸ hall g (by simp [hk, hg]))
    · cases a with
      | fault c => exact simulates_raise hv.toSameOutside
      | ok => exact .next ⟨{ hv with pending := rfl }, hv.live⟩

theorem writeHeaderStep_alike (h : Alike s u) (hp : s.phase = .wheader) :
    Simulates Alike (writeHeaderStep s) (writeHeaderStep u) := by
  obtain ⟨hc, hku, hall, hm⟩ := h.live.wheader hp
  unfold writeHeaderStep
  rw [hku]
  cases hk : s.hstack with
  | nil =>
    exact .next ⟨{ h.turn with phase := rfl, pending := rfl }, by simpa [LiveAgree] using hc⟩
  | cons f rest =>
    have he : EntriesMatch s.nnodes _ _ (s.nodeAt f.node) (u.nodeAt f.node) := hm f.node (hall f (by simp [hk]))
    have hpu : u.phase = .wheader := h.phase.trans hp
    cases hl : (s.nodeAt f.node).isLeaf with
    | true =>
      simp only [token_of_leaf hl, token_of_leaf (he.isLeaf.trans hl), he.sym, exec, execLeaf_of_wheader hp,
        execLeaf_of_wheader hpu]
      exact writeLeafToken_alike h hp
    | false =>
      simp only [token_of_node hl, token_of_node (he.isLeaf.trans hl), exec, execNode_of_wheader hp,
        execNode_of_wheader hpu]
      exact writeNodeToken_alike h hp hk hl

theorem rewindStep_alike (h : Alike s u) (hp : s.phase = .rewind) : Simulates Alike (rewindStep s) (rewindStep u) := by
  refine simulates_inReset h fun a t v ht hv => ?_
  cases a with
  | fault c => exact simulates_raise hv.toSameOutside
  | ok =>
    exact .next (SameOutside.alike_encode { hv with phase := rfl, pending := rfl } rfl
      (hv.live.rewind (ht.phase.trans hp)))

theorem encodeRead_alike (h : Alike s u) (hp : s.phase = .encode) : Simulates Alike (encodeRead s) (encodeRead u) := by
  refine simulates_inRead h fun a t v ht hv => ?_
  have hcode := hv.live.encode (ht.phase.trans hp)
  cases a with
  | fault c => exact simulates_raise hv.toSameOutside
  | eoi => exact .next ⟨{ hv with pending := rfl }, hv.live⟩
  | val n =>
    simp only [hcode]
    exact .ite (fun _ => simulates_raise hv.toSameOutside) fun _ =>
      .next (SameOutside.alike_encode { hv with pending := rfl } (ht.phase.trans hp) rfl)

theorem encodeWrite_alike {k : Fin 257} (h : Alike s u) (hp : s.phase = .encode) :
    Simulates Alike (encodeWrite k s) (encodeWrite k u) := by
  unfold encodeWrite
  rw [h.live.encode hp]
  refine simulates_outWrite h fun a t v ht hv => ?_
  cases a with
  | fault c => exact simulates_raise hv.toSameOutside
  | ok =>
    exact .ite (fun _ => .next (SameOutside.alike_close { hv with phase := rfl, pending := rfl } rfl))
      fun _ => .next ⟨{ hv with pending := rfl }, hv.live⟩

theorem encodeStep_alike (h : Alike s u) (hp : s.phase = .encode) : Simulates Alike (encodeStep s) (encodeStep u) := by
  unfold encodeStep
  rw [h.pending]
  split
  · exact encodeWrite_alike h hp
  all_goals exact encodeRead_alike h hp

theorem readMagicStep_alike (h : Alike s u) : Simulates Alike (readMagicStep s) (readMagicStep u) := by
  refine simulates_inRead h fun a t v ht hv => ?_
  cases a with
  | fault c => exact simulates_raise hv.toSameOutside
  | eoi => exact simulates_raise hv.toSameOutside
  | val n =>
    simp only [hv.magic]
    refine .ite (fun _ => .next ⟨{ hv with phase := rfl, pending := rfl }, rfl, rfl, by simp, ?_⟩)
      fun _ => simulates_raise hv.toSameOutside
    exact fun j hj => absurd hj (Nat.not_lt_zero _)

theorem complete_ok_alike (h : SameOutside s u) : Alike (complete .ok s) (complete .ok u) :=
  SameOutside.alike_idle
    { h with status := congrArg Status.completed h.status, op := rfl, phase := rfl, pending := rfl } rfl

theorem complete_alike (a : AckAnswer) (h : SameOutside s u) : Alike (complete a s) (complete a u) := by
  cases a with
  | ok => exact complete_ok_alike h
  | fault c =>
    by_cases he : s.status.errcode = .noError
    · rw [complete_fault_first he, complete_fault_first (h.status ▸ he)]
      exact SameOutside.alike_idle
        { h with
          status := congrArg (fun st => (Status.withError st .portFaultOut).completed) h.status
          errinfo := rfl, op := rfl, phase := rfl, pending := rfl } rfl
    · rw [complete_fault_later he, complete_fault_later (h.status ▸ he)]
      exact complete_ok_alike h

theorem closeStep_alike (h : Alike s u) : Simulates Alike (closeStep s) (closeStep u) :=
  simulates_outClose h fun a _ _ _ hv => .next (complete_alike a hv.toSameOutside)

/-! ### Header reading of alike machines -/

/-- READ_HEADER's machines agree when the frames that wait are the same and the stores match as far as those are read. -/
theorem alike_rheader (h : SameOutside s u) (hp : s.phase = .rheader) (hn : u.nnodes = s.nnodes)
    (hk : u.hstack = s.hstack) (hall : ∀ f ∈ s.hstack, f.node.val < s.nnodes)
    (hm : StoresMatch s.nnodes s.hstack s.node u.node) : Alike s u :=
  ⟨h, by simpa [LiveAgree, hp] using ⟨hn, hk, hall, hm⟩⟩

theorem alike_decode (h : SameOutside s u) (hp : s.phase = .decode) (ht : TreeAgree s u) (hc : u.cur = s.cur)
    (hlt : s.cur.val < s.nnodes) : Alike s u := by
  obtain ⟨hr, hrlt, hm⟩ := ht
  exact ⟨h, by simpa [LiveAgree, hp] using ⟨hr, hrlt, hc, hlt, hm⟩⟩

/-- A subtree that is delivered fills the same child in both machines (R254). -/
theorem deliver_alike {i : NodeIdx} {fs : List Frame} (h : SameOutside s u) (hp : s.phase = .rheader)
    (hn : u.nnodes = s.nnodes) (hi : i.val < s.nnodes) (hall : ∀ f ∈ fs, f.node.val < s.nnodes)
    (hm : StoresMatch s.nnodes fs s.node u.node) : Alike (deliver i fs s) (deliver i fs u) := by
  induction fs generalizing i s u with
  | nil => exact alike_decode { h with phase := rfl, pending := rfl } rfl ⟨rfl, hi, hm⟩ rfl hi
  | cons f fs ih =>
    have hf := hall f List.mem_cons_self
    have he : EntriesMatch s.nnodes _ _ (s.nodeAt f.node) (u.nodeAt f.node) := hm f.node hf
    unfold deliver
    split
    · next hside =>
      refine ih { h with } hp hn hf (fun g hg => hall g (List.mem_cons_of_mem f hg)) ?_
      refine hm.set (Nat.le_refl _) (fun _ _ => id) (fun g hg hgf => ?_) ?_
      · exact (List.mem_cons.mp hg).resolve_left fun hgf' => hgf (hgf' ▸ rfl)
      · refine ⟨he.isLeaf, he.sym, he.w, fun hl hleft => he.l hl ?_, fun _ _ => ⟨rfl, hi⟩⟩
        intro hmem
        obtain heq | hmem := List.mem_cons.mp hmem
        · rw [← heq] at hside
          cases hside
        · exact hleft hmem
    · refine alike_rheader { h with pending := rfl } hp hn rfl ?_ ?_
      · simpa using hall
      · refine hm.set (Nat.le_refl _) (fun _ _ => id) (fun g hg hgf => ?_) ?_
        · exact List.mem_cons_of_mem _ ((List.mem_cons.mp hg).resolve_left fun hgf' => hgf (hgf' ▸ rfl))
        · exact ⟨he.isLeaf, he.sym, he.w, fun _ _ => ⟨rfl, hi⟩, fun _ hr =>
            absurd rfl (hr { node := f.node, side := true } List.mem_cons_self)⟩

theorem readLeafToken_alike {sym : Symbol} (h : Alike s u) (hp : s.phase = .rheader) :
    Simulates Alike (readLeafToken sym s) (readLeafToken sym u) := by
  obtain ⟨hn, hk, hall, hm⟩ := h.live.rheader hp
  unfold readLeafToken
  by_cases hlt : s.nnodes < 513
  · have hi : (⟨s.nnodes, hlt⟩ : NodeIdx).val = s.nnodes := rfl
    generalize (⟨s.nnodes, hlt⟩ : NodeIdx) = i at hi
    rw [alloc_next hi, alloc_next (hi.trans hn.symm), hk, hn]
    refine .next (deliver_alike { h with } hp rfl ?_ (fun f hf => Nat.lt_succ_of_lt (hall f hf)) ?_)
    · exact hi ▸ Nat.lt_succ_self _
    · exact hm.push hi (List.Subset.refl _) entriesMatch_leaf
  · rw [alloc_none (Nat.le_of_not_lt hlt), alloc_none (hn ▸ Nat.le_of_not_lt hlt)]
    exact simulates_raise h.toSameOutside

theorem readNodeToken_alike (h : Alike s u) (hp : s.phase = .rheader) :
    Simulates Alike (readNodeToken s) (readNodeToken u) := by
  obtain ⟨hn, hk, hall, hm⟩ := h.live.rheader hp
  unfold readNodeToken
  by_cases hlt : s.nnodes < 513
  · have hi : (⟨s.nnodes, hlt⟩ : NodeIdx).val = s.nnodes := rfl
    generalize (⟨s.nnodes, hlt⟩ : NodeIdx) = i at hi
    rw [alloc_next hi, alloc_next (hi.trans hn.symm), hn]
    refine .next (alike_rheader { h with pending := rfl } hp rfl (congrArg (pendingNode i :: ·) hk) ?_ ?_)
    · intro f hf
      obtain rfl | hf := List.mem_cons.mp hf
      · exact hi ▸ Nat.lt_succ_self _
      · exact Nat.lt_succ_of_lt (hall f hf)
    · refine hm.push hi (List.subset_cons_self _ _) ⟨rfl, rfl, rfl, fun _ hl => ?_, fun _ hr => ?_⟩
      · exact absurd List.mem_cons_self hl
      · exact absurd rfl (hr (pendingNode i) List.mem_cons_self)
  · rw [alloc_none (Nat.le_of_not_lt hlt), alloc_none (hn ▸ Nat.le_of_not_lt hlt)]
    exact simulates_raise h.toSameOutside

theorem runToken_alike {bits : List Bool} (h : Alike s u) (hp : s.phase = .rheader) :
    Simulates Alike (runToken bits s) (runToken bits u) := by
  have hpu : u.phase = .rheader := h.phase.trans hp
  unfold runToken
  split
  · next i rest hd =>
    obtain rfl | ⟨sym, rfl⟩ := decode_hdr_cases hd
    · simp only [exec, execNode_of_rheader hp, execNode_of_rheader hpu]
      exact readNodeToken_alike h hp
    · simp only [exec, execLeaf_of_rheader hp, execLeaf_of_rheader hpu]
      exact readLeafToken_alike h hp
  · exact .next ⟨{ h with pending := rfl }, h.live⟩

theorem readFlag_alike (h : Alike s u) (hp : s.phase = .rheader) : Simulates Alike (readFlag s) (readFlag u) := by
  refine simulates_inRead h fun a t v ht hv => ?_
  cases a with
  | fault c => exact simulates_raise hv.toSameOutside
  | eoi => exact simulates_raise hv.toSameOutside
  | val n => exact runToken_alike hv (ht.phase.trans hp)

theorem readSymbol_alike (h : Alike s u) (hp : s.phase = .rheader) : Simulates Alike (readSymbol s) (readSymbol u) := by
  refine simulates_inRead h fun a t v ht hv => ?_
  cases a with
  | fault c => exact simulates_raise hv.toSameOutside
  | eoi => exact simulates_raise hv.toSameOutside
  | val n => exact runToken_alike hv (ht.phase.trans hp)

theorem readHeaderStep_alike (h : Alike s u) (hp : s.phase = .rheader) :
    Simulates Alike (readHeaderStep s) (readHeaderStep u) := by
  unfold readHeaderStep
  rw [h.pending]
  split
  · exact readSymbol_alike h hp
  all_goals exact readFlag_alike h hp

/-! ### DECODE of alike machines -/

/-- A bit leads alike machines to the same allocated node (R285 to R287). -/
theorem nextNode_alike (h : Alike s u) (hp : s.phase = .decode) (bit : Bool) :
    nextNode u bit = nextNode s bit ∧ (nextNode s bit).val < s.nnodes := by
  obtain ⟨ht, hc, hlt⟩ := h.live.decode hp
  have he : EntriesMatch s.nnodes _ _ (s.nodeAt s.cur) (u.nodeAt s.cur) := ht.stores s.cur hlt
  cases hl : (s.nodeAt s.cur).isLeaf with
  | true =>
    rw [nextNode_leaf hl, nextNode_leaf (by rw [hc, he.isLeaf, hl])]
    exact ⟨hc, hlt⟩
  | false =>
    have hchild := he.l hl (by simp)
    have hchild' := he.r hl (by simp)
    cases bit <;> simpa [nextNode, hc, he.isLeaf, hl]

theorem reach_alike {i : NodeIdx} (h : Alike s u) (hp : s.phase = .decode) (hi : i.val < s.nnodes) :
    Alike (reach i s) (reach i u) := by
  obtain ⟨ht, hc, hlt⟩ := h.live.decode hp
  have he : EntriesMatch s.nnodes _ _ (s.nodeAt i) (u.nodeAt i) := ht.stores i hi
  unfold reach
  rw [he.isLeaf, he.sym]
  split
  · split
    · exact SameOutside.alike_close { h with phase := rfl, pending := rfl } rfl
    split
    · exact h.toSameOutside.raise _ _
    · exact ⟨{ h with pending := rfl }, h.live⟩
  · exact alike_decode { h with pending := rfl } hp ⟨ht.root, ht.allocated, ht.stores⟩ rfl hi

theorem decodeRead_alike (h : Alike s u) (hp : s.phase = .decode) : Simulates Alike (decodeRead s) (decodeRead u) := by
  refine simulates_inRead h fun a t v ht hv => ?_
  have htp := ht.phase.trans hp
  cases a with
  | fault c => exact simulates_raise hv.toSameOutside
  | eoi => exact simulates_raise hv.toSameOutside
  | val n =>
    obtain ⟨hnext, hlt⟩ := nextNode_alike hv htp (n != 0)
    simp only [hnext]
    exact .next (reach_alike hv htp hlt)

theorem decodeWrite_alike {b : Byte} (h : Alike s u) (hp : s.phase = .decode) :
    Simulates Alike (decodeWrite b s) (decodeWrite b u) := by
  refine simulates_outWrite h fun a t v ht hv => ?_
  have htp := ht.phase.trans hp
  cases a with
  | fault c => exact simulates_raise hv.toSameOutside
  | ok =>
    obtain ⟨⟨hr, hrlt, hm⟩, -, -⟩ := hv.live.decode htp
    exact .next (alike_decode { hv with pending := rfl } htp ⟨hr, hrlt, hm⟩ hr hrlt)

theorem decodeStep_alike (h : Alike s u) (hp : s.phase = .decode) : Simulates Alike (decodeStep s) (decodeStep u) := by
  unfold decodeStep
  rw [h.pending]
  split
  · exact decodeWrite_alike h hp
  all_goals exact decodeRead_alike h hp

/-- A turn of the core ends alike in alike machines. -/
theorem coreStep_alike (h : Alike s u) : Simulates Alike (coreStep s) (coreStep u) := by
  unfold coreStep
  rw [h.phase]
  split
  · next hp => exact .next (h.turn.alike_idle (by simpa using hp))
  · next hp => exact countStep_alike h hp
  · next hp => exact absurd h.live (by simp [LiveAgree, hp])
  · next hp => exact absurd h.live (by simp [LiveAgree, hp])
  · next hp => exact writeMagicStep_alike h hp
  · next hp => exact writeHeaderStep_alike h hp
  · next hp => exact rewindStep_alike h hp
  · next hp => exact encodeStep_alike h hp
  · next hp => exact readMagicStep_alike h
  · next hp => exact readHeaderStep_alike h hp
  · next hp => exact decodeStep_alike h hp
  · next hp => exact closeStep_alike h

/-! ### The host's turns -/

/-- A launch on idle machines with the same ports ends alike, if its start does (R150, R354, R356, R364). -/
theorem launch_alike {op : Op} {placed : Bool} {start : State → State} (h : SamePorts s u)
    (hb : s.status.busy = false) (hb' : u.status.busy = false)
    (hstart : Alike (start (accept op s)) (start (accept op u))) :
    Simulates Alike (launch op placed start s) (launch op placed start u) := by
  simp only [launch, hb, hb', h.aliased, h.out]
  exact .ite (fun hc => absurd hc (by simp)) fun _ => .ite (fun _ => .refused _) fun _ =>
    .ite (fun _ => .refused _) fun _ => .ite (fun _ => .refused _) fun _ => .next hstart

/-- Idle machines with the same ports are alike once a command word is accepted: what a word finds of an earlier command it
overwrites, or never reads (R50, R162). -/
theorem exec_decodeCommand_alike (w : Word) (h : SamePorts s u) (hb : s.status.busy = false)
    (hb' : u.status.busy = false) : Simulates Alike (exec (decodeCommand w) s) (exec (decodeCommand w) u) := by
  have hout : ({ u.out with ob := [] } : OutPort) = { s.out with ob := [] } := by rw [h.out]
  unfold decodeCommand
  split
  · simp only [exec, execCompress, h.inp]
    exact launch_alike h hb hb' ⟨{ h with
      out := hout, status := rfl, errinfo := rfl, op := rfl, phase := rfl, pending := rfl, trace := rfl }, rfl, rfl⟩
  split
  · exact launch_alike h hb hb' ⟨{ h with
      out := hout, status := rfl, errinfo := rfl, op := rfl, phase := rfl, pending := rfl, trace := rfl }, trivial⟩
  · simp only [exec, execIllegal_idle hb, execIllegal_idle hb']
    exact .next (SameOutside.alike_idle { h with
      status := rfl, errinfo := rfl, op := rfl, phase := rfl, pending := rfl, trace := rfl } rfl)

theorem regRead_alike (offset bytes : Nat) (h : Alike s u) :
    Simulates Alike (regRead offset bytes s) (regRead offset bytes u) := by
  unfold regRead
  refine .ite (fun _ => .next ⟨{ h with hostData := rfl }, h.live⟩) fun _ => ?_
  refine .ite (fun _ => .next ⟨{ h with hostData := congrArg Status.word h.status }, h.live⟩) fun _ => ?_
  refine .ite (fun _ => .next ⟨{ h with hostData := h.errinfo }, h.live⟩) fun _ => ?_
  exact .ite (fun _ => .next ⟨{ h with hostData := h.magic }, h.live⟩) fun _ => .refused _

theorem regWrite_alike (offset bytes : Nat) (w : Word) (h : Alike s u) :
    Simulates Alike (regWrite offset bytes w s) (regWrite offset bytes w u) := by
  unfold regWrite
  refine .ite (fun _ => ?_) fun _ => .ite (fun _ => .next h) fun _ => .refused _
  cases hb : s.status.busy with
  | true =>
    rw [exec_decodeCommand_busy w hb, exec_decodeCommand_busy w (h.status ▸ hb)]
    exact .next h
  | false => exact exec_decodeCommand_alike w h.toSamePorts hb (h.status ▸ hb)

theorem portUse_alike {x y : Host.Outcome State Fault Refusal} (h : Alike s u) (hxy : Simulates Alike x y) :
    Simulates Alike (portUse x s) (portUse y u) := by
  unfold portUse
  rw [h.status]
  exact .ite (fun _ => .refused _) fun _ => hxy

theorem hostRead_alike (n : Nat) (h : Alike s u) : Simulates Alike (hostRead n s) (hostRead n u) := by
  unfold hostRead
  rw [h.inp, h.freeIdx]
  exact .ite (fun _ => .refused _) fun _ => .ite (fun _ => .next ⟨{ h with inp := rfl, freeIdx := rfl }, h.live⟩)
    fun _ => .next ⟨{ h with inp := rfl, hostData := rfl, freeIdx := rfl }, h.live⟩

theorem hostWrite_alike (n w : Nat) (h : Alike s u) : Simulates Alike (hostWrite n w s) (hostWrite n w u) := by
  unfold hostWrite
  rw [h.out]
  exact .ite (fun _ => .refused _) fun _ => .ite (fun _ => .refused _) fun _ => .next ⟨{ h with out := rfl }, h.live⟩

theorem coreReset_alike (inp : InPort) (out : OutPort) (h : Alike s u) :
    Alike (coreReset inp out s) (coreReset inp out u) := by
  refine SameOutside.alike_idle { h with
    inp := ?_, out := ?_, status := rfl, errinfo := rfl, op := rfl, phase := rfl, pending := rfl, trace := rfl } rfl
  · simp only [coreReset_inp, h.status, h.inp]
  · simp only [coreReset_out, h.status, h.out]

/-- A turn of the host or the platform ends alike in alike machines. -/
theorem hostStep_alike (e : HostEvent) (h : Alike s u) : Simulates Alike (hostStep e s) (hostStep e u) := by
  cases e with
  | regRead offset bytes => exact regRead_alike offset bytes h
  | regWrite offset bytes w => exact regWrite_alike offset bytes w h
  | reset inp out => exact .next (coreReset_alike inp out h)
  | connect src cursor al => exact portUse_alike h (.next ⟨{ h with inp := rfl, aliased := rfl }, h.live⟩)
  | openOutput => exact portUse_alike h (.next ⟨{ h with out := rfl }, h.live⟩)
  | closeOutput => exact portUse_alike h (.next ⟨{ h with out := congrArg OutPort.closed h.out }, h.live⟩)
  | portRead n => exact portUse_alike h (hostRead_alike n h)
  | portRewind =>
    exact portUse_alike h (.next
      ⟨{ h with inp := congrArg (fun p : InPort => { p with ic := 0, eoi := false }) h.inp }, h.live⟩)
  | portWrite n w => exact portUse_alike h (hostWrite_alike n w h)
  | sourceChange src =>
    exact .next ⟨{ h with inp := congrArg (fun p : InPort => InPort.clipped { p with src := src }) h.inp }, h.live⟩

/-! ### Runs of alike machines -/

theorem step_alike (h : Alike s u) : Simulates Alike (step s) (step u) := by
  obtain hc | ⟨e, rest, he⟩ := turn_cases s
  · have hcu : u.coreTurn = true := by
      simpa only [State.coreTurn, h.inputs] using hc
    rw [step_of_coreTurn hc, step_of_coreTurn hcu]
    exact coreStep_alike h
  · rw [step_of_hostTurn he, step_of_hostTurn (h.inputs.trans he)]
    exact hostStep_alike e ⟨{ h with inputs := rfl }, h.live⟩

theorem Alike.view (h : Alike s u) : s.view = u.view := by
  simp only [State.view, h.status, h.errinfo, h.hostData, h.inp, h.out, h.trace]

/-- Outcomes that are alike look the same after any number of further steps. -/
theorem outcomeView_of_simulates (k : Nat) {x y : Host.Outcome State Fault Refusal} (h : Simulates Alike x y) :
    outcomeView (andThen x (runs k)) = outcomeView (andThen y (runs k)) := by
  induction k generalizing x y with
  | zero =>
    cases h with
    | next h => exact congrArg Host.Outcome.next h.view
    | fault r => rfl
    | refused r => rfl
  | succ k ih =>
    cases h with
    | next h => exact ih (step_alike h)
    | fault r => rfl
    | refused r => rfl

/-- Settles O60: the accepted word makes the machines alike, and they stay so at every step. -/
theorem nothingOfAnEarlierCommandIsRead : Obligations.NothingOfAnEarlierCommandIsRead := by
  unfold Obligations.NothingOfAnEarlierCommandIsRead
  intro s u w rest hs hu hsidle huidle hturn hinputs hmagic hwb hinp hout haliased hdata hfree k
  have hports : SamePorts { s with inputs := rest } { u with inputs := rest } :=
    ⟨hmagic, hwb, hinp, hout, haliased, rfl, hdata, hfree⟩
  rw [runs_step_first, runs_step_first, step_of_hostTurn hturn, step_of_hostTurn (hinputs.trans hturn)]
  exact outcomeView_of_simulates k
    (exec_decodeCommand_alike w hports (hs.idle_iff.mp hsidle) (hu.idle_iff.mp huidle))

end Sys2Proof.Machine

/-! ## The frequency counter: what one read of COUNT leads to, and the first pass (41_frequency_counter.md) -/
namespace Sys2Proof.Machine

variable {s : State}

/-- COUNT, when its read returns a byte: the limit of TOTAL is looked at before FREQ or TOTAL changes (R180, R183). -/
theorem countStep_of_value (hd : s.draw = .serve) (hx : s.inp.exhausted 8 = false) :
    countStep s = if s.total = 2 ^ s.wb - 2 then .next (raise .countOverflow 0#32 (s.afterRead 8))
      else .next (countByte (BitVec.ofNat 8 (s.inp.field 8)) (s.afterRead 8)) := by
  simp [countStep, inRead_value hd hx]

/-- One byte is counted at its own value only (R182). -/
theorem countByte_freq_eq_ite (b x : Byte) (s : State) :
    (countByte b s).freq[x.toNat] = if x = b then s.freq[x.toNat] + 1 else s.freq[x.toNat] := by
  rw [countByte_freq_toNat, List.count_singleton']
  by_cases hx : x = b
  · rw [if_pos hx.symm, if_pos hx]
  · rw [if_neg (Ne.symm hx), if_neg hx, Nat.add_zero]

/-- Settles O32: `countStep_of_value` on the two sides of TOTAL's limit. -/
theorem countCountsOneByteOrOverflows : Obligations.CountCountsOneByteOrOverflows := by
  unfold Obligations.CountCountsOneByteOrOverflows
  intro s hs hp hx
  obtain ⟨hturn, hd⟩ := served_iff.mp hs
  rw [step_of_coreTurn hturn, coreStep_of_count hp, countStep_of_value hd hx]
  constructor
  · intro hroom
    refine ⟨_, BitVec.ofNat 8 (s.inp.field 8), if_neg hroom, ?byte, fun x => ?freq, ?total, rfl⟩
    case byte => rw [BitVec.toNat_ofNat, Nat.mod_eq_of_lt field_lt]
    case freq => rw [countByte_freq_eq_ite, afterRead_freq]
    case total => rw [countByte_total, afterRead_total]
  · intro hlimit
    exact ⟨if_pos hlimit, by rw [raise_freq, afterRead_freq], by rw [raise_total, afterRead_total],
      by rw [raise_out, afterRead_out]⟩

/-- Settles O33: the bytes are counted one by one (`count_source`), and the step of the EOI builds the tree and its codes
and leaves FREQ and TOTAL (`count_end`). -/
theorem countPassCountsTheSource : Obligations.CountPassCountsTheSource := by
  unfold Obligations.CountPassCountsTheSource
  intro s src h hp hfreq htotal hinp hlen
  obtain ⟨u, hu, hcount, hend, huf⟩ := count_source src h hp (hinp ▸ offers_source src) (by omega)
  obtain ⟨t, -, ht, -, -, -, -, htf⟩ := count_end hu.turns (by rw [huf]; exact hp) hend
  refine ⟨t, (hu.trans ht).runs, by rw [htf], ?total, fun b => ?freq, ?source, by rw [htf, huf], by rw [htf, huf]⟩
  case total => rw [htf, huf, htotal, Nat.zero_add]
  case freq =>
    have hkept : t.freq = u.freq := by rw [htf]
    simp [hkept, hcount, hfreq]
  case source => rw [htf, huf, hinp]; rfl

end Sys2Proof.Machine

/-! ## The tree builder: extraction, the merge, and the tree of the counts (42_tree_builder.md) -/
namespace Sys2Proof.Machine

variable {s t u : State}

/-! ### Extraction -/

theorem ranksBefore_iff {w : NodeIdx → Nat} {i j : NodeIdx} :
    ranksBefore w i j = true ↔ w i < w j ∨ (w i = w j ∧ i.val < j.val) := by
  simp [ranksBefore]

theorem ranksBefore_trans {w : NodeIdx → Nat} {i j k : NodeIdx} (hij : ranksBefore w i j = true)
    (hjk : ranksBefore w j k = true) : ranksBefore w i k = true := by
  rw [ranksBefore_iff] at *
  omega

/-- Of two nodes one ranks first: their indices differ (R204). -/
theorem ranksBefore_of_not {w : NodeIdx → Nat} {i j : NodeIdx} (hne : i ≠ j) (h : ¬ ranksBefore w i j = true) :
    ranksBefore w j i = true := by
  have hval := Fin.val_ne_of_ne hne
  rw [ranksBefore_iff] at *
  omega

/-- The node that ranks first ranks before every other (R204). -/
theorem firstRanked_ranksBefore {w : NodeIdx → Nat} {q : List NodeIdx} {i : NodeIdx} (h : firstRanked w q = some i) :
    ∀ j ∈ q, j ≠ i → ranksBefore w i j = true := by
  induction q generalizing i with
  | nil => nofun
  | cons k q ih =>
    unfold firstRanked at h
    split at h
    · next hnone =>
      obtain rfl := Option.some.inj h
      rw [firstRanked_eq_none hnone]
      exact fun j hj hne => absurd (List.mem_singleton.mp hj) hne
    · next m hm =>
      split at h
      · next hkm =>
        obtain rfl := Option.some.inj h
        intro j hj hne
        have hjq := (List.mem_cons.mp hj).resolve_left hne
        by_cases hjm : j = m
        · exact hjm ▸ hkm
        · exact ranksBefore_trans hkm (ih hm j hjq hjm)
      · next hkm =>
        obtain rfl := Option.some.inj h
        intro j hj hne
        rcases List.mem_cons.mp hj with rfl | hjq
        · exact ranksBefore_of_not hne hkm
        · exact ih hm j hjq hne

/-- Settles O34, by induction on the queue (`firstRanked_ranksBefore`). -/
theorem extractionTakesTheLeastWeightAndIndex : Obligations.ExtractionTakesTheLeastWeightAndIndex := by
  unfold Obligations.ExtractionTakesTheLeastWeightAndIndex
  intro w q hq
  obtain ⟨i, hi⟩ := Option.ne_none_iff_exists'.mp fun h => hq (firstRanked_eq_none (w := w) h)
  exact ⟨i, hi, firstRanked_mem hi, fun j hj hne => ranksBefore_iff.mp (firstRanked_ranksBefore hi j hj hne)⟩

/-! ### The merge -/

/-- An allocated entry is the only one that changes (R200, R205). -/
theorem nodeAt_set_next {n : Nat} (hn : s.nnodes < 513) (e : NodeEntry) (q : List NodeIdx) (j : NodeIdx) :
    State.nodeAt { s with nnodes := n, node := s.node.set s.nnodes e, q := q } j =
      if j = ⟨s.nnodes, hn⟩ then e else s.nodeAt j :=
  setNode_nodeAt s ⟨s.nnodes, hn⟩ j e

/-- The weights of a queue that a new node joins: those of the allocated nodes stay (R206, R209). -/
theorem weight_sum_set_next {n : Nat} (hn : s.nnodes < 513) (e : NodeEntry) (q' : List NodeIdx) {q : List NodeIdx}
    (hq : ∀ i ∈ q, i.val < s.nnodes) :
    ((q ++ [(⟨s.nnodes, hn⟩ : NodeIdx)]).map fun i =>
        (State.nodeAt { s with nnodes := n, node := s.node.set s.nnodes e, q := q' } i).w).sum =
      (q.map fun i => (s.nodeAt i).w).sum + e.w := by
  have hold : ∀ i ∈ q, (if i = ⟨s.nnodes, hn⟩ then e else s.nodeAt i).w = (s.nodeAt i).w := fun i hi => by
    rw [if_neg fun heq => Nat.ne_of_lt (hq i hi) (congrArg Fin.val heq)]
  simp only [nodeAt_set_next hn, List.map_append, List.sum_append, List.map_congr_left hold, List.map_singleton,
    List.sum_singleton, if_pos]

theorem Building.nodup (h : Building s) : s.q.Nodup :=
  h.queue_ascends.imp fun hlt heq => absurd (congrArg Fin.val heq) (Nat.ne_of_lt hlt)

/-- A merge keeps the invariant of BUILD's loop: the new node ranks last in index, and weighs what has left Q (R206,
R209). -/
theorem Building.mergeStep (h : Building s) (ht : mergeStep s = .next t) : Building t := by
  have hlen := mergeStep_length ht
  obtain ⟨a, c, hn, ha, hc, -, -, rfl⟩ := mergeStep_cases ht
  have hsub : ((s.q.erase a).erase c).Sublist s.q := List.erase_sublist.trans List.erase_sublist
  have hold : ∀ i ∈ (s.q.erase a).erase c, i.val < s.nnodes := fun i hi => h.queue_allocated i (hsub.subset hi)
  refine ⟨h.wb_ge, h.in_build, ?ascends, ?allocated, by simp, ?room, ?weights, h.total_le⟩
  case ascends =>
    refine List.pairwise_append.mpr ⟨h.queue_ascends.sublist hsub, List.pairwise_singleton _ _, fun i hi j hj => ?_⟩
    rw [List.mem_singleton.mp hj]
    exact hold i hi
  case allocated =>
    intro i hi
    rcases List.mem_append.mp hi with hi | hi
    · exact Nat.lt_succ_of_lt (hold i hi)
    · rw [List.mem_singleton.mp hi]
      exact Nat.lt_succ_self _
  case room =>
    have := h.room
    simp only at hlen ⊢
    omega
  case weights =>
    have hsum := h.weight_sum
    rw [← sum_erase _ ha, ← sum_erase _ hc] at hsum
    rw [weight_sum_set_next hn _ _ hold, mergedNode]
    simp only
    omega

/-- BUILD's loop has an entry left for every merge (R207, R211). -/
theorem Building.mergeStep_next (h : Building s) (hq : 2 ≤ s.q.length) : ∃ t, Machine.mergeStep s = .next t :=
  Machine.mergeStep_next hq (by have := h.room; omega)

/-- Settles O35: `mergeStep_cases` says what a merge does, `firstRanked_ranksBefore` which nodes it joins, and
`Building.mergeStep` that the loop's invariant is kept. -/
theorem mergeJoinsTheTwoLightestNodes : Obligations.MergeJoinsTheTwoLightestNodes := by
  unfold Obligations.MergeJoinsTheTwoLightestNodes
  intro s h hq
  obtain ⟨t, ht⟩ := h.mergeStep_next hq
  have hkept := h.mergeStep ht
  obtain ⟨a, c, hn, ha, hc, hfa, hfc, rfl⟩ := mergeStep_cases ht
  obtain ⟨hca, hcq⟩ := (h.nodup.mem_erase_iff).mp hc
  refine ⟨_, a, c, ⟨s.nnodes, hn⟩, ht, ha, hcq, hca.symm, rfl, ?first, ?second, ?new, ?others, rfl, rfl, rfl, hkept⟩
  case first => exact fun j hj hja => ranksBefore_iff.mp (firstRanked_ranksBefore hfa j hj hja)
  case second =>
    exact fun j hj hja hjc => ranksBefore_iff.mp (firstRanked_ranksBefore hfc j ((List.mem_erase_of_ne hja).mpr hj) hjc)
  case new => rw [nodeAt_set_next hn, if_pos rfl, mergedNode]
  case others => exact fun j hj => by rw [nodeAt_set_next hn, if_neg hj]

/-! ### BUILD does not stop -/

/-- BUILD's loop ends (R207, R211). -/
theorem Building.mergeAll_next (h : Building s) : ∃ t, mergeAll s.q.length s = .next t := by
  generalize hsize : s.q.length = size
  induction size generalizing s with
  | zero => exact absurd (List.length_eq_zero_iff.mp hsize) h.queue_nonempty
  | succ size ih =>
    unfold mergeAll
    split
    · next hq => exact absurd hq h.queue_nonempty
    · exact ⟨_, rfl⟩
    · next hq =>
      obtain ⟨u, hu⟩ := h.mergeStep_next (by simp [hq])
      have hlen := mergeStep_length hu
      rw [hu, andThen_next]
      exact ih (h.mergeStep hu) (by omega)

/-- No weight in Q passes `2^WB - 1` (R186, R211). -/
theorem Building.weight_le (h : Building s) {i : NodeIdx} (hi : i ∈ s.q) : (s.nodeAt i).w ≤ 2 ^ s.wb - 1 := by
  have hle : (s.nodeAt i).w ≤ s.total + 1 :=
    h.weight_sum ▸ List.le_sum_of_mem (List.mem_map_of_mem hi)
  have htotal := h.total_le
  have hpow : 2 ^ 10 ≤ 2 ^ s.wb := Nat.pow_le_pow_right (by decide) h.wb_ge
  omega

/-- Seeding gives the invariant of BUILD's loop, from counts that TOTAL has room for (R201 to R203, R186). -/
theorem startBuild_building (hwb : 10 ≤ s.wb) (hsum : s.freq.toList.sum = s.total) (htotal : s.total ≤ 2 ^ s.wb - 2) :
    ∃ t, startBuild s = .next t ∧ Building t := by
  have hlen := seedLeaves_length s.freq
  have hpos : 0 < (seedLeaves s.freq).length := by simp [seedLeaves]
  have hempty : Seeded { s with phase := .build, nnodes := 0, q := [] } := ⟨.nil, by simp, Nat.zero_le _⟩
  obtain ⟨t, ht, hseeded, hnodes, hqlen, hweights, hframe⟩ := seedAll_spec (seedLeaves s.freq) hempty
    (by simp only; omega)
  simp only [List.length_nil, List.map_nil, List.sum_nil, Nat.zero_add, seedLeaves_sum, hsum] at hnodes hqlen hweights
  refine ⟨t, by rw [startBuild, ht], ?_⟩
  exact {
    wb_ge := by rw [hframe]; exact hwb
    in_build := by rw [hframe]
    queue_ascends := hseeded.asc
    queue_allocated := hseeded.all
    queue_nonempty := List.ne_nil_of_length_pos (by omega)
    room := by omega
    weight_sum := by rw [hweights, hframe]
    total_le := by rw [hframe]; exact htotal }

/-- The step of COUNT's EOI runs BUILD and GENCODES (R12). -/
theorem step_of_count_eoi (hs : s.served = true) (hp : s.phase = .count) (hx : s.inp.exhausted 8 = true) :
    step s = andThen (build (s.afterEoi 8)) gencodes := by
  obtain ⟨hturn, hd⟩ := served_iff.mp hs
  rw [step_of_coreTurn hturn, coreStep_of_count hp, countStep, inRead_eoi hd hx, andThen_next]

/-- Settles O36: seeding gives the loop's invariant (`startBuild_building`), from which the loop ends
(`Building.mergeAll_next`), and neither BUILD nor GENCODES writes STATUS (`build_frame`, `gencodes_frame`). -/
theorem buildNeverStopsAndWeightsFit : Obligations.BuildNeverStopsAndWeightsFit := by
  unfold Obligations.BuildNeverStopsAndWeightsFit
  refine ⟨fun s hinv hs hp hx => ?seeding, fun s h => ⟨?loop, fun i hi => h.weight_le hi⟩⟩
  case seeding =>
    obtain ⟨u, hu, hbuilding⟩ := startBuild_building (s := s.afterEoi 8) (by simpa using hinv.wb_ge)
      (by simpa using hinv.count_sum hp) (by simpa using hinv.total_le hp)
    obtain ⟨v, t, -, hv, ht, -⟩ := build_gencodes (s.afterEoi 8)
    have hstep := step_of_count_eoi hs hp hx
    rw [hv, andThen_next, ht] at hstep
    obtain ⟨hframe, -⟩ := build_frame hv
    exact ⟨u, t, hu, hbuilding, hstep, by rw [gencodes_frame ht, hframe]; exact afterEoi_status s 8⟩
  case loop =>
    obtain ⟨t, ht⟩ := h.mergeAll_next
    obtain ⟨hq, -⟩ := mergeAll_end _ ht
    exact ⟨t, ht, by rw [mergeAll_frame _ ht], hq⟩

/-! ### What BUILD's loop keeps -/

/-- Whatever every merge keeps holds when the loop ends, with the root alone in Q (R200, R206). -/
theorem mergeAll_keeps {P : State → Prop} {size : Nat} (hkeep : ∀ u v, P u → mergeStep u = .next v → P v) (h : P s)
    (ht : mergeAll size s = .next t) : ∃ u r, P u ∧ u.q = [r] ∧ t = { u with root := r, q := [] } := by
  induction size generalizing s with
  | zero => cases ht
  | succ size ih =>
    unfold mergeAll at ht
    split at ht
    · cases ht
    · next r hq => exact ⟨s, r, h, hq, (Host.Outcome.next.inj ht).symm⟩
    · obtain ⟨v, hv, ht⟩ := andThen_eq_next ht
      exact ih (hkeep s v h hv) ht

/-! ### The leaves' indices -/

/-- The leaves of a list stand at the first entries of the store, in their order (R202, R203). -/
def SeededWith (s : State) (L : List (Symbol × Nat)) : Prop :=
  ∀ k x, L[k]? = some x → ∃ i : NodeIdx, i.val = k ∧ HoldsWithin s.nnodes s.node i (.leaf x.1 x.2)

/-- An allocation leaves the first entries as they are (R200). -/
theorem SeededWith.set_next {L : List (Symbol × Nat)} (h : SeededWith s L) (hn : s.nnodes < 513) (e : NodeEntry)
    (q : List NodeIdx) :
    SeededWith { s with nnodes := s.nnodes + 1, node := s.node.set s.nnodes e, q := q } L := by
  intro k x hx
  obtain ⟨i, hi, hleaf⟩ := h k x hx
  exact ⟨i, hi, hleaf.set_next hn e⟩

theorem SeededWith.mergeStep {L : List (Symbol × Nat)} (h : SeededWith s L) (ht : mergeStep s = .next t) :
    SeededWith t L := by
  obtain ⟨a, c, hn, -, -, -, -, rfl⟩ := mergeStep_cases ht
  exact h.set_next hn _ _

/-- The next leaf of the list is seeded at the next entry (R202, R203). -/
theorem SeededWith.seedLeaf {L : List (Symbol × Nat)} {x : Symbol × Nat} (h : SeededWith s L)
    (hn : s.nnodes = L.length) (ht : seedLeaf x s = some t) :
    SeededWith t (L ++ [x]) ∧ t.nnodes = (L ++ [x]).length := by
  obtain ⟨⟨i, hlt⟩, hi, rfl⟩ := seedLeaf_eq_some ht
  obtain rfl : i = s.nnodes := hi
  refine ⟨fun k y hy => ?_, by simp [hn]⟩
  rcases Nat.lt_or_ge k L.length with hk | hk
  · rw [List.getElem?_append_left hk] at hy
    exact h.set_next hlt _ _ k y hy
  · rw [List.getElem?_append_right hk, List.getElem?_singleton] at hy
    obtain ⟨hlast, hxy⟩ := Option.ite_some_none_eq_some.mp hy
    subst hxy
    exact ⟨⟨s.nnodes, hlt⟩, by simp only; omega,
      holdsWithin_leaf (Nat.lt_succ_self _) (Vector.getElem_set_self _) rfl rfl rfl⟩

theorem SeededWith.seedAll {L l : List (Symbol × Nat)} (h : SeededWith s L) (hn : s.nnodes = L.length)
    (ht : seedAll l s = some t) : SeededWith t (L ++ l) := by
  induction l generalizing s L with
  | nil => cases ht; simpa using h
  | cons x l ih =>
    unfold Machine.seedAll at ht
    split at ht
    · cases ht
    · next u hu =>
      obtain ⟨hseeded, hun⟩ := h.seedLeaf hn hu
      simpa using ih hseeded hun ht

/-! ### The tree of the counts -/

/-- BUILD has made a tree of the leaves `L`: it is held at ROOT, the leaves stand at the first entries, and the nodes
allocated are the tree's (R200 to R209). -/
structure TreeBuilt (s : State) (T : Tree) (L : List (Symbol × Nat)) : Prop where
  held : HoldsWithin s.nnodes s.node s.root T
  sums : T.sums = true
  perm : T.leaves.Perm L
  seeded : SeededWith s L
  allocated : s.nnodes + 1 = 2 * L.length

/-- What BUILD's loop keeps: Q holds a forest of the leaves `L`, which stand at the first entries (R203, R206). -/
def SeededForest (L : List (Symbol × Nat)) (s : State) : Prop :=
  (∃ tree, Forest s tree L) ∧ SeededWith s L

theorem SeededForest.mergeStep {L : List (Symbol × Nat)} (h : SeededForest L s) (ht : mergeStep s = .next t) :
    SeededForest L t := by
  obtain ⟨⟨tree, hforest⟩, hseeded⟩ := h
  exact ⟨hforest.mergeStep ht, hseeded.mergeStep ht⟩

/-- The last node in Q is the root of a tree of all the leaves (R206 to R208). -/
theorem Forest.treeBuilt {tree : NodeIdx → Tree} {L : List (Symbol × Nat)} {r : NodeIdx} (h : Forest s tree L)
    (hL : SeededWith s L) (hq : s.q = [r]) : TreeBuilt { s with root := r, q := [] } (tree r) L where
  held := h.held r (by simp [hq])
  sums := h.sums r (by simp [hq])
  perm := by simpa [hq] using h.perm
  seeded := hL
  allocated := by simpa [hq] using h.room

/-- BUILD makes a tree of the counted leaves: seeding makes a forest of them, and every merge keeps it (R200 to
R211). -/
theorem build_treeBuilt (s : State) : ∃ t T, build s = .next t ∧ TreeBuilt t T (countedLeaves s.freq) := by
  obtain ⟨t, -, ht, -⟩ := build_holds s
  obtain ⟨u, hu, hmerged⟩ := andThen_eq_next ht
  have hall := startBuild_eq_next hu
  have hempty : Forest { s with phase := .build, nnodes := 0, q := [] } (fun _ => .leaf sentinel 0) [] :=
    ⟨by simp, by simp, .refl _, rfl⟩
  have hseeded := SeededWith.seedAll (L := []) nofun rfl hall
  obtain ⟨u', tree, hu', hforest⟩ := hempty.seedAll (l := seedLeaves s.freq)
    (by have := seedLeaves_length s.freq; simp only; omega)
  obtain rfl : u = u' := Option.some.inj (hall.symm.trans hu')
  rw [List.nil_append, seedLeaves_eq_countedLeaves] at hseeded hforest
  obtain ⟨v, r, ⟨⟨tree', hforest'⟩, hseeded'⟩, hq, rfl⟩ := mergeAll_keeps (P := SeededForest (countedLeaves s.freq))
    (fun _ _ => SeededForest.mergeStep) ⟨⟨tree, hforest⟩, hseeded⟩ hmerged
  exact ⟨_, tree' r, ht, hforest'.treeBuilt hseeded' hq⟩

/-- The symbols of the counted leaves: the byte values with a positive count, ascending, and the sentinel (R210). -/
theorem countedLeaves_map_fst (freq : Vector Nat 256) : (countedLeaves freq).map Prod.fst =
    ((List.finRange 256).filter (fun b => freq[b.val] > 0)).map (fun b => BitVec.ofNat 9 b.val) ++ [sentinel] := by
  simp [countedLeaves, Function.comp_def]

/-- The counted leaves weigh one more than the counts (R186, R209). -/
theorem countedLeaves_sum (freq : Vector Nat 256) : ((countedLeaves freq).map Prod.snd).sum = freq.toList.sum + 1 := by
  rw [← seedLeaves_eq_countedLeaves, seedLeaves_sum]

/-- With no byte counted the sentinel is the only leaf (R208). -/
theorem countedLeaves_of_sum_zero {freq : Vector Nat 256} (h : freq.toList.sum = 0) :
    countedLeaves freq = [(sentinel, 1)] := by
  have hzero : ∀ b : Fin 256, freq[b.val] = 0 := fun b => List.sum_eq_zero_iff.mp h _ (by simp)
  simp [countedLeaves, hzero]

/-- A tree with a single leaf is that leaf. -/
theorem eq_leaf_of_leaves {T : Tree} {sym : Symbol} {w : Nat} (h : T.leaves = [(sym, w)]) : T = .leaf sym w := by
  cases T with
  | leaf sym' w' => simpa [Tree.leaves] using h
  | node w' l r =>
    have hlen : (Tree.node w' l r).symbols.length = 1 := by rw [symbols_eq_map_leaves, h]; rfl
    have := symbols_length_pos l
    have := symbols_length_pos r
    rw [Tree.symbols, List.length_append] at hlen
    omega

/-- Settles O37: BUILD makes a tree of the counted leaves (`build_treeBuilt`), GENCODES its codes (`gencodes_holds`),
and the counts of a state that meets the invariant sum to TOTAL. -/
theorem buildMakesTheTreeOfTheCounts : Obligations.BuildMakesTheTreeOfTheCounts := by
  unfold Obligations.BuildMakesTheTreeOfTheCounts
  intro s hinv hs hp hx
  obtain ⟨v, T, hv, hT⟩ := build_treeBuilt (s.afterEoi 8)
  rw [afterEoi_freq] at hT
  have hsyms : T.symbols.Perm ((countedLeaves s.freq).map Prod.fst) := symbols_eq_map_leaves T ▸ hT.perm.map Prod.fst
  obtain ⟨hnodup, hle⟩ := countedLeaves_symbols s.freq
  have hdistinct := hsyms.nodup_iff.mpr hnodup
  obtain ⟨c, hc, hcodes⟩ := gencodes_holds hT.held.holds hdistinct fun x hx => hle x (hsyms.mem_iff.mp hx)
  have hstep := step_of_count_eoi hs hp hx
  rw [hv, andThen_next, hc] at hstep
  have hsum := hinv.count_sum hp
  have hlen : T.symbols.length = (countedLeaves s.freq).length := by simpa using hsyms.length_eq
  have hnodes : v.nnodes + 1 = 2 * T.symbols.length := hlen ▸ hT.allocated
  refine ⟨_, T, hstep, rfl, hT.held.holds, hT.sums, ?weight, hT.perm,
    ?leaves, countedLeaves_map_fst s.freq ▸ hsyms, hdistinct, hnodes, ?size, ?empty, hcodes, ?frame⟩
  case weight => rw [weight_eq_sum_leaves hT.sums, (hT.perm.map Prod.snd).sum_eq, countedLeaves_sum, hsum]
  case leaves =>
    intro k x hk
    obtain ⟨i, rfl, hleaf⟩ := hT.seeded k x hk
    exact ⟨i.isLt, hleaf.holds⟩
  case size => have := size_eq T; simp only; omega
  case empty =>
    intro hzero
    have hsingle := countedLeaves_of_sum_zero (hsum.trans hzero)
    have hroot := hT.held.lt
    have hone := hT.allocated
    rw [hsingle, List.length_singleton] at hone
    exact ⟨eq_leaf_of_leaves (List.perm_singleton.mp (hsingle ▸ hT.perm)), Fin.ext (by simp only [Fin.val_zero]; omega)⟩
  case frame =>
    obtain ⟨hframe, -⟩ := build_frame hv
    rw [hframe, ← hinv.queue_empty, ← afterEoi_q s 8]

end Sys2Proof.Machine

/-! ## The code table (43_code_table.md): every leaf gets its path, and no code is a prefix of another -/
namespace Sys2Proof.Machine

/-- Settles O38: GENCODES enters the tree's codes (`gencodes_holds`, by induction on the tree) and writes CODE alone,
besides PHASE and the pending transaction. Distinct symbols that fit in CODE already bound the paths. -/
theorem gencodesGivesTheTreePaths : Obligations.GencodesGivesTheTreePaths := by
  unfold Obligations.GencodesGivesTheTreePaths
  intro s T hT hdistinct hle _
  obtain ⟨c, hc, hcodes⟩ := gencodes_holds hT hdistinct hle
  exact ⟨_, hc, rfl, hcodes, rfl⟩

/-- A path that begins another ends at the same leaf: the two take the same turn at every internal node (R232). -/
theorem eq_of_paths_prefix {T : Tree} {x y : Symbol} {p q : List Bool} (hx : (x, p) ∈ T.paths)
    (hy : (y, q) ∈ T.paths) (hpq : p <+: q) : x = y := by
  induction T generalizing p q with
  | leaf sym w =>
    obtain ⟨rfl, -⟩ := Prod.mk.inj (List.mem_singleton.mp hx)
    obtain ⟨rfl, -⟩ := Prod.mk.inj (List.mem_singleton.mp hy)
    rfl
  | node w l r ihl ihr =>
    obtain ⟨b, p, rfl, hp⟩ := mem_paths_node.mp hx
    obtain ⟨b', q, rfl, hq⟩ := mem_paths_node.mp hy
    obtain ⟨rfl, htail⟩ := List.cons_prefix_cons.mp hpq
    cases b with
    | false => exact ihl hp hq htail
    | true => exact ihr hp hq htail

/-- A code that begins another is the code of the same symbol; the code `"0"` of a single leaf stands alone (R233). -/
theorem eq_of_codes_prefix {T : Tree} {x y : Symbol} {p q : List Bool} (hx : (x, p) ∈ T.codes)
    (hy : (y, q) ∈ T.codes) (hpq : p <+: q) : x = y := by
  cases T with
  | leaf sym w =>
    obtain ⟨rfl, -⟩ := Prod.mk.inj (List.mem_singleton.mp hx)
    obtain ⟨rfl, -⟩ := Prod.mk.inj (List.mem_singleton.mp hy)
    rfl
  | node w l r => exact eq_of_paths_prefix hx hy hpq

/-- An entry of CODE with a LEN other than 0 holds a code of the list (R48). -/
theorem mem_codes_of_len_ne_zero {table : Vector CodeEntry 257} {codes : List (Symbol × List Bool)} {k : Fin 257}
    (h : CodesAre table codes) (hk : (table[k.val]).len ≠ 0) : (indexSymbol k, (table[k.val]).bitString) ∈ codes := by
  obtain ⟨hcoded, hothers⟩ := h
  obtain ⟨p, hp⟩ : ∃ p, (indexSymbol k, p) ∈ codes := by
    by_contra hnone
    exact hk (hothers k (not_exists.mp hnone))
  rwa [hcoded k p hp]

theorem indexSymbol_injective : Function.Injective indexSymbol := fun j k h =>
  Fin.ext (by rw [← indexSymbol_toNat j, h, indexSymbol_toNat])

/-- Settles O39: the two entries hold codes of the tree, of which one begins another of the same symbol only
(`eq_of_codes_prefix`, by induction on the tree). -/
theorem codesOfATreeArePrefixFree : Obligations.CodesOfATreeArePrefixFree := by
  unfold Obligations.CodesOfATreeArePrefixFree
  intro table T h j k hne hj hk hprefix
  have hsym : indexSymbol j = indexSymbol k :=
    eq_of_codes_prefix (mem_codes_of_len_ne_zero h hj) (mem_codes_of_len_ne_zero h hk) hprefix
  exact hne (indexSymbol_injective hsym)

end Sys2Proof.Machine

/-! ## The header codec (44_header_codec.md): the tokens as they are written and read, MAGIC, and the tree of a header -/
namespace Sys2Proof.Machine

variable {s : State}

/-! ### Tokens written -/

theorem bin_one_zero : bin 1 0 = [false] := rfl

theorem bin_one_one : bin 1 1 = [true] := rfl

theorem headerWritten_eq (rest : List Frame) (s : State) : headerWritten rest s = { s with
    hstack := rest, pending := .top, phase := if rest = [] then .rewind else .wheader } := by
  simp only [headerWritten, List.isEmpty_iff]

/-- Settles O18: the token's transaction is answered OK, and the children are pending, the left one on top. -/
theorem nodeTokenWrittenIsOneZeroBit : Obligations.NodeTokenWrittenIsOneZeroBit := by
  unfold Obligations.NodeTokenWrittenIsOneZeroBit
  intro s f rest hp hk ho hd
  exact ⟨exec_node_written hp hk ho hd, by rw [afterWrite_out, bin_one_zero]⟩

/-- Settles O19: the flag's transaction, then the symbol's, after which the node is done. -/
theorem leafTokenWrittenIsAOneAndNineBits : Obligations.LeafTokenWrittenIsAOneAndNineBits := by
  unfold Obligations.LeafTokenWrittenIsAOneAndNineBits
  intro s sym f rest hp hk ho hd
  refine ⟨fun hpe => exec_leaf_flag_written hp hk hpe ho hd, fun hpe => ?symbol,
    by rw [afterWrite_out, bin_one_one], by rw [afterWrite_out]⟩
  case symbol => rw [exec_leaf_symbol_written hp hk hpe ho hd, headerWritten_eq]

/-! ### MAGIC written -/

theorem coreStep_of_wmagic (h : s.phase = .wmagic) : coreStep s = writeMagicStep s := by
  simp [coreStep, h]

theorem writeMagicStep_of_open (ho : s.out.oc = false) (hd : s.draw = .serve) :
    writeMagicStep s = .next (startWriteHeader (s.afterWrite 32 s.magic.toNat)) := by
  simp [writeMagicStep, outWrite_ok (n := 32) (by decide) (by decide) ho hd]

/-- Settles O40: WRITE_MAGIC's only transaction is answered OK, and header writing starts at the root. -/
theorem writeMagicWritesTheConstant : Obligations.WriteMagicWritesTheConstant := by
  unfold Obligations.WriteMagicWritesTheConstant
  intro s hs hp ho
  obtain ⟨hturn, hd⟩ := served_iff.mp hs
  constructor
  · rw [step_of_coreTurn hturn, coreStep_of_wmagic hp, writeMagicStep_of_open ho hd, startWriteHeader, afterWrite_frame]
  · rw [afterWrite_out]

/-! ### The end of input in a header -/

theorem readFlag_eoi (hd : s.draw = .serve) (hx : s.inp.exhausted 1 = true) :
    readFlag s = .next (raise .truncatedHeader 0#32 (s.afterEoi 1)) := by
  simp [readFlag, inRead_eoi hd hx]

theorem readSymbol_eoi (hd : s.draw = .serve) (hx : s.inp.exhausted 9 = true) :
    readSymbol s = .next (raise .truncatedHeader 0#32 (s.afterEoi 9)) := by
  simp [readSymbol, inRead_eoi hd hx]

/-- Settles O47: the read of a flag, and the read of a symbol. -/
theorem truncatedHeaderAtTheEndOfInput : Obligations.TruncatedHeaderAtTheEndOfInput := by
  unfold Obligations.TruncatedHeaderAtTheEndOfInput
  intro s hs hp
  obtain ⟨hturn, hd⟩ := served_iff.mp hs
  rw [step_of_coreTurn hturn, coreStep_of_rheader hp]
  exact ⟨fun hpe hx => (readHeaderStep_of_top hpe).trans (readFlag_eoi hd hx),
    fun hpe hx => (readHeaderStep_of_symField hpe).trans (readSymbol_eoi hd hx)⟩

/-! ### Tokens read -/

/-- Settles O17: no entry is left to allocate, for either token. -/
theorem nodeOverflowAtTheAllocation : Obligations.NodeOverflowAtTheAllocation := by
  unfold Obligations.NodeOverflowAtTheAllocation
  intro s sym hp hn
  have hfull : alloc s = none := alloc_none hn.ge
  constructor
  · rw [exec, execNode_of_rheader hp, readNodeToken, hfull]
  · rw [exec, execLeaf_of_rheader hp, readLeafToken, hfull]

/-- Settles O15: the allocated entry is written (`exec_node_read`), and no other. -/
theorem nodeTokenReadAllocatesAnInternalNode : Obligations.NodeTokenReadAllocatesAnInternalNode := by
  unfold Obligations.NodeTokenReadAllocatesAnInternalNode
  intro s hn hp
  have hnew := setNode_nodeAt_same s ⟨s.nnodes, hn⟩
    { s.nodeAt ⟨s.nnodes, hn⟩ with isLeaf := false, sym := 0#9, w := 0 }
  refine ⟨_, exec_node_read (i := ⟨s.nnodes, hn⟩) hp rfl, congrArg NodeEntry.isLeaf hnew, congrArg NodeEntry.w hnew,
    congrArg NodeEntry.sym hnew, fun j hj => ?other, rfl, rfl, rfl, rfl⟩
  case other => exact setNode_nodeAt_other fun heq => hj (congrArg Fin.val heq)

/-- The delivery of a subtree writes the nodes that wait, and no other (R254). -/
theorem deliver_nodeAt_other {i j : NodeIdx} {fs : List Frame} (h : ∀ f ∈ fs, f.node ≠ j) :
    (deliver i fs s).nodeAt j = s.nodeAt j := by
  induction fs generalizing i s with
  | nil => rfl
  | cons f fs ih =>
    obtain ⟨hf, hfs⟩ := List.forall_mem_cons.mp h
    unfold deliver
    split
    · exact (ih hfs).trans (setNode_nodeAt_other hf.symm)
    · exact setNode_nodeAt_other hf.symm

/-- The delivery to a node whose left subtree was read: it waits for its right one (R254). -/
theorem deliver_to_left {i : NodeIdx} {f : Frame} {fs : List Frame} (hf : f.side = false) :
    deliver i (f :: fs) s = leftDelivered f.node i fs s := by
  simp [deliver, leftDelivered, hf]

/-- The delivery to a node whose right subtree was read: it is complete, and delivered in its turn (R254). -/
theorem deliver_to_right {i : NodeIdx} {f : Frame} {fs : List Frame} (hf : f.side = true) :
    deliver i (f :: fs) s = deliver f.node fs (rightDelivered f.node i s) := by
  simp [deliver, rightDelivered, hf]

/-- LEAF read: entry NNODES is written, and the leaf is delivered (R254, R256). -/
theorem exec_leaf_read_delivers (sym : Symbol) (hp : s.phase = .rheader) (hn : s.nnodes < 513) :
    ∃ v, exec (.leaf sym) s = .next (deliver ⟨s.nnodes, hn⟩ s.hstack v) ∧
      v.nodeAt ⟨s.nnodes, hn⟩ = { s.nodeAt ⟨s.nnodes, hn⟩ with isLeaf := true, sym := sym, w := 0 } ∧
      (∀ j : NodeIdx, j ≠ ⟨s.nnodes, hn⟩ → v.nodeAt j = s.nodeAt j) ∧
      v = { s with node := v.node, nnodes := s.nnodes + 1 } :=
  ⟨_, exec_leaf_read (i := ⟨s.nnodes, hn⟩) hp rfl, setNode_nodeAt_same _ _ _, fun _ hj => setNode_nodeAt_other hj, rfl⟩

/-- Settles O16: the leaf is allocated and delivered (`exec_leaf_read_delivers`), and the delivery is followed to the node
that waits. By the invariant the waiting nodes are distinct, and older than the leaf. -/
theorem leafTokenReadAllocatesAndReturnsALeaf : Obligations.LeafTokenReadAllocatesAndReturnsALeaf := by
  unfold Obligations.LeafTokenReadAllocatesAndReturnsALeaf
  intro s sym hn hinv hp
  obtain ⟨v, hstep, hleaf, hkept, hframe⟩ := exec_leaf_read_delivers sym hp hn
  have hvphase : v.phase = .rheader := by rw [hframe]; exact hp
  have hne : ∀ f ∈ s.hstack, f.node ≠ ⟨s.nnodes, hn⟩ := fun f hf heq =>
    Nat.ne_of_lt (hinv.stack_allocated hp f hf) (congrArg Fin.val heq)
  have hnew := (deliver_nodeAt_other (i := ⟨s.nnodes, hn⟩) (s := v) hne).trans hleaf
  have hnnodes : (deliver ⟨s.nnodes, hn⟩ s.hstack v).nnodes = s.nnodes + 1 := by rw [deliver_frame, hframe]
  refine ⟨_, hstep, by rw [hnew], by rw [hnew], by rw [hnew], hnnodes, deliver_pending _ _ _, fun j hj hwait => ?other,
    fun hk => ?root, fun f rest hk hf => ?left, fun f hk hf => ?right, fun f g rest hk hf hg => ?both, ?frame⟩
  case other =>
    exact (deliver_nodeAt_other hwait).trans (hkept j fun heq => hj (congrArg Fin.val heq))
  case root =>
    rw [hk]
    exact ⟨rfl, rfl, rfl, rfl⟩
  case left =>
    have hfnew := hne f (by simp [hk])
    rw [hk, deliver_to_left hf]
    refine ⟨(leftDelivered_same _ _ _ _).trans ?_, hvphase, rfl⟩
    rw [hkept f.node hfnew]
  case right =>
    have hfnew := hne f (by simp [hk])
    rw [hk, deliver_to_right hf]
    refine ⟨(rightDelivered_same _ _ _).trans ?_, rfl, rfl, rfl, rfl⟩
    rw [hkept f.node hfnew]
  case both =>
    have hfnew := hne f (by simp [hk])
    have hgnew := hne g (by simp [hk])
    have hdesc := hinv.stack_descends hp
    rw [hk] at hdesc
    have hgf : g.node ≠ f.node := fun heq =>
      Nat.ne_of_lt (List.rel_of_pairwise_cons hdesc List.mem_cons_self) (congrArg Fin.val heq)
    rw [hk, deliver_to_right hf, deliver_to_left hg]
    refine ⟨(leftDelivered_other hgf.symm).trans ((rightDelivered_same _ _ _).trans ?_),
      (leftDelivered_same _ _ _ _).trans ?_, hvphase, rfl⟩
    · rw [hkept f.node hfnew]
    · rw [State.nodeAt, rightDelivered_other hgf, ← State.nodeAt, hkept g.node hgnew]
  case frame =>
    refine (deliver_frame _ _ _).trans ?_
    rw [hnnodes, hframe]

/-! ### The tree of a header -/

/-- Settles O48: the tree is read at the root (`readHeader_root`, by induction on the tree), and the cursor stands behind
its header. -/
theorem readHeaderRebuildsTheTree : Obligations.ReadHeaderRebuildsTheTree := by
  unfold Obligations.ReadHeaderRebuildsTheTree
  intro s T rest h hp hpe hk hn heoi _ hahead hsize
  have hin : s.inp.Offers (T.header ++ rest) := ⟨heoi, hahead⟩
  obtain ⟨k, t, hrun, hholds, hframe⟩ := readHeader_root h hp hpe hk hn hin hsize
  have hinp : t.inp = { s.inp with ic := s.inp.ic + T.header.length } := by rw [hframe]
  refine ⟨t, reaches_of_runs hrun.runs, by rw [hframe], by rw [hframe], hholds, by rw [hframe], by rw [hframe], hinp,
    ?_, by rw [hframe]⟩
  rw [hinp]
  exact hin.advance.ahead

end Sys2Proof.Machine

/-! ## The transcoder (45_transcoder.md): one step of REWIND, of ENCODE and of DECODE -/
namespace Sys2Proof.Machine

variable {s : State}

/-! ### REWIND -/

theorem coreStep_of_rewind (h : s.phase = .rewind) : coreStep s = rewindStep s := by
  simp [coreStep, h]

theorem rewindStep_ok (hd : s.draw = .serve) :
    rewindStep s = .next { s.turn.record (.inReset .ok) with
      phase := .encode, pending := .top, inp := { s.inp with ic := 0, eoi := false } } := by
  simp [rewindStep, inReset_ok hd]

/-- Settles O42: InReset is answered OK (`rewindStep_ok`), with the frame of a transaction. -/
theorem rewindGoesBackToTheFirstByte : Obligations.RewindGoesBackToTheFirstByte := by
  unfold Obligations.RewindGoesBackToTheFirstByte
  intro s hs hp
  obtain ⟨hturn, hd⟩ := served_iff.mp hs
  rw [step_of_coreTurn hturn, coreStep_of_rewind hp, rewindStep_ok hd, turn_record_frame]
  exact ⟨_, rfl, rfl, rfl, rfl, rfl, rfl⟩

/-! ### ENCODE -/

theorem encodeStep_of_top (h : s.pending = .top) : encodeStep s = encodeRead s := by
  simp [encodeStep, h]

theorem encodeStep_of_code {k : Fin 257} (h : s.pending = .code k) : encodeStep s = encodeWrite k s := by
  simp [encodeStep, h]

theorem encodeRead_eoi (hd : s.draw = .serve) (hx : s.inp.exhausted 8 = true) :
    encodeRead s = .next { s.afterEoi 8 with pending := .code sentinelIndex } := by
  simp [encodeRead, inRead_eoi hd hx]

/-- ENCODE's read of a byte: whether the byte has a code decides, before anything is written for it (R280, R284). -/
theorem encodeRead_byte {b : Byte} (hd : s.draw = .serve) (hx : s.inp.exhausted 8 = false)
    (hb : b.toNat = s.inp.field 8) :
    encodeRead s = if (s.code[(byteIndex b).val]).len = 0 then .next (raise .noCode (b.setWidth 32) (s.afterRead 8))
      else .next { s.afterRead 8 with pending := .code (byteIndex b) } := by
  simp [encodeRead, inRead_value hd hx, ← hb]

/-- ENCODE's write of a code: the sentinel's is the last one (R280, R283). -/
theorem encodeWrite_of_open {k : Fin 257} (hd : s.draw = .serve) (ho : s.out.oc = false)
    (hc : (s.code[k.val]).len ≠ 0) :
    encodeWrite k s = .next { s.afterWrite (s.code[k.val]).len.val (s.code[k.val]).bits.toNat with
      phase := if k = sentinelIndex then .close else s.phase, pending := .top } := by
  have hlen : 1 ≤ (s.code[k.val]).len.val := Nat.one_le_iff_ne_zero.mpr (Fin.val_ne_zero_iff.mpr hc)
  rw [encodeWrite, outWrite_ok hlen (by omega) ho hd, andThen_next]
  by_cases hk : k = sentinelIndex
  · simp [hk]
  · simp [hk, afterWrite_frame]

theorem eq_sentinelIndex_iff {k : Fin 257} : k = sentinelIndex ↔ k.val = 256 := Fin.ext_iff

/-- Settles O43: the read's answers (`encodeRead_eoi`, `encodeRead_byte`) and the write of a code
(`encodeWrite_of_open`). -/
theorem encodeWritesOneCodePerByte : Obligations.EncodeWritesOneCodePerByte := by
  unfold Obligations.EncodeWritesOneCodePerByte
  intro s hs hp
  obtain ⟨hturn, hd⟩ := served_iff.mp hs
  rw [step_of_coreTurn hturn, coreStep_of_encode hp]
  refine ⟨fun hpe hx => ?sentinel, fun b hpe hx hb => ?byte, fun k hpe ho hc => ?code⟩
  case sentinel => exact (encodeStep_of_top hpe).trans (encodeRead_eoi hd hx)
  case byte =>
    rw [encodeStep_of_top hpe, encodeRead_byte hd hx hb]
    exact ⟨fun hnone => ⟨if_pos hnone, by rw [raise_out, afterRead_out]⟩, fun hcoded => if_neg hcoded⟩
  case code =>
    refine ⟨_, (encodeStep_of_code hpe).trans (encodeWrite_of_open hd ho hc), afterWrite_out _ _ _, rfl, ?phase, ?frame⟩
    case phase => simp only [eq_sentinelIndex_iff, hp]
    case frame => rw [afterWrite_frame]

/-! ### DECODE -/

theorem decodeStep_of_top (h : s.pending = .top) : decodeStep s = decodeRead s := by
  simp [decodeStep, h]

theorem decodeStep_of_literal {b : Byte} (h : s.pending = .literal b) : decodeStep s = decodeWrite b s := by
  simp [decodeStep, h]

theorem decodeRead_eoi (hd : s.draw = .serve) (hx : s.inp.exhausted 1 = true) :
    decodeRead s = .next (raise .truncatedPayload 0#32 (s.afterEoi 1)) := by
  simp [decodeRead, inRead_eoi hd hx]

theorem nextNode_afterRead (n : Nat) (b : Bool) : nextNode (s.afterRead n) b = nextNode s b := by
  rw [afterRead_frame]; rfl

theorem afterRead_nodeAt (n : Nat) (i : NodeIdx) : (s.afterRead n).nodeAt i = s.nodeAt i := by
  rw [State.nodeAt, State.nodeAt, afterRead_node]

/-- DECODE's read of a bit: the node it leads to is reached (R285, R286). -/
theorem decodeRead_bit (hd : s.draw = .serve) (hx : s.inp.exhausted 1 = false) :
    decodeRead s = .next (reach (nextNode s (s.inp.field 1 != 0)) (s.afterRead 1)) := by
  simp [decodeRead, inRead_value hd hx, nextNode_afterRead]

/-- The node that a bit read as a number leads to (R286, R287). -/
theorem nextNode_field : nextNode s (s.inp.field 1 != 0) =
    if (s.nodeAt s.cur).isLeaf then s.cur
    else if s.inp.field 1 = 1 then (s.nodeAt s.cur).r else (s.nodeAt s.cur).l := by
  have hlt : s.inp.field 1 < 2 := field_lt
  obtain hbit | hbit : s.inp.field 1 = 0 ∨ s.inp.field 1 = 1 := by omega
  · simp [nextNode, hbit]
  · simp [nextNode, hbit]

theorem decodeWrite_of_open {b : Byte} (hd : s.draw = .serve) (ho : s.out.oc = false) :
    decodeWrite b s = .next { s.afterWrite 8 b.toNat with cur := s.root, pending := .top } := by
  simp [decodeWrite, outWrite_ok (n := 8) (by decide) (by decide) ho hd]

/-- A symbol below 256 is the number of the literal byte that it stands for (R289). -/
theorem setWidth_toNat_of_literal {sym : Symbol} (h : sym.toNat < 256) : (sym.setWidth 8).toNat = sym.toNat := by
  rw [BitVec.toNat_setWidth, Nat.mod_eq_of_lt h]

/-- Settles O49: the bit leads to node `i` (`decodeRead_bit`, `nextNode_field`), and the kind and the symbol of `i` say
what reaching it leads to. -/
theorem decodeWalksOneEdgePerBit : Obligations.DecodeWalksOneEdgePerBit := by
  unfold Obligations.DecodeWalksOneEdgePerBit
  intro s hs hp
  obtain ⟨hturn, hd⟩ := served_iff.mp hs
  rw [step_of_coreTurn hturn, coreStep_of_decode hp]
  refine ⟨fun hpe hx => ?eoi, fun i hpe hx hi => ?bit, fun b hpe ho => ⟨?literal, ?written⟩⟩
  case eoi => exact (decodeStep_of_top hpe).trans (decodeRead_eoi hd hx)
  case bit =>
    have hread : decodeStep s = .next (reach i (s.afterRead 1)) := by
      rw [decodeStep_of_top hpe, decodeRead_bit hd hx, nextNode_field, ← hi]
    have htop : (s.afterRead 1).pending = .top := by rw [afterRead_pending, hpe]
    rw [hread, ← afterRead_nodeAt 1 i]
    refine ⟨fun hnode => ?internal, fun hleaf hsym => ?sentinel, fun hleaf hsym => ?above, fun hleaf hsym => ?below⟩
    case internal => rw [reach_node hnode, ← htop]
    case sentinel => rw [reach_sentinel hleaf hsym, ← htop]
    case above => rw [reach_above hleaf hsym]
    case below => exact ⟨_, setWidth_toNat_of_literal hsym, by rw [reach_literal hleaf hsym]⟩
  case literal => exact (decodeStep_of_literal hpe).trans (decodeWrite_of_open hd ho)
  case written => rw [afterWrite_out]

end Sys2Proof.Machine

/-! ## Exceptions (60_exceptions.md): error entry, the faults of the two ports, and READ_MAGIC's error

`ReadsPort` and `WritesPort` say once what a step in a reading and in a writing phase is: one transaction, whose fault raises
the port's error (R314, R315), and then what its other answers lead to. -/
namespace Sys2Proof.Machine

variable {s t : State}

/-! ### Error entry -/

/-- COMPLETE issues OutClose alone, and ends the command however that is answered (R157). -/
theorem closeStep_ends (h : closeStep s = .next t) :
    (∃ a, t.trace = s.trace ++ [.outClose a]) ∧ t.status.busy = false ∧ t.status.done = true := by
  obtain ⟨⟨a, u⟩, hclose, ht⟩ := andThen_eq_next h
  obtain rfl := Host.Outcome.next.inj ht
  exact ⟨⟨a, (complete_trace a u).trans (outClose_issues hclose).trace⟩, (complete_ends a u).2⟩

/-- Settles O30: error entry leaves the turns to come as they were, so the core's next step is COMPLETE's. -/
theorem errorEntryGoesToClose : Obligations.ErrorEntryGoesToClose := by
  unfold Obligations.ErrorEntryGoesToClose
  intro e info s
  refine ⟨rfl, rfl, rfl, rfl, fun t hc hs => ?close⟩
  case close =>
    have hturn : (raise e info s).coreTurn = true := hc
    rw [step_of_coreTurn hturn, coreStep_of_close (raise_phase s e info)] at hs
    have hend := closeStep_ends hs
    rwa [raise_trace] at hend

/-! ### A fault of the input port -/

/-- A step that issues one input transaction and raises PORT_FAULT_IN when that is answered FAULT (R314). -/
inductive ReadsPort (s : State) : Host.Outcome State Fault Refusal → Prop where
  | inRead {n : Nat} {f : InAnswer × State → Host.Outcome State Fault Refusal}
    (hf : ∀ c u, f (.fault c, u) = .next (raise .portFaultIn c u)) : ReadsPort s (andThen (inRead n s) f)
  | inReset {f : AckAnswer × State → Host.Outcome State Fault Refusal}
    (hf : ∀ c u, f (.fault c, u) = .next (raise .portFaultIn c u)) : ReadsPort s (andThen (inReset s) f)

/-- The phases that read (R82). -/
theorem readsNext_cases (h : s.readsNext = true) :
    s.phase = .count ∨ s.phase = .rewind ∨ s.phase = .rmagic ∨ s.phase = .rheader ∨
      (s.phase = .encode ∧ s.pending = .top) ∨ (s.phase = .decode ∧ s.pending = .top) := by
  unfold State.readsNext at h
  split at h <;> simp_all

theorem readHeaderStep_readsPort (s : State) : ReadsPort s (readHeaderStep s) := by
  unfold readHeaderStep
  split <;> exact .inRead fun _ _ => rfl

theorem coreStep_readsPort (h : s.readsNext = true) : ReadsPort s (coreStep s) := by
  obtain hp | hp | hp | hp | ⟨hp, hpe⟩ | ⟨hp, hpe⟩ := readsNext_cases h
  · rw [coreStep_of_count hp]; exact .inRead fun _ _ => rfl
  · rw [coreStep_of_rewind hp]; exact .inReset fun _ _ => rfl
  · rw [coreStep_of_rmagic hp]; exact .inRead fun _ _ => rfl
  · rw [coreStep_of_rheader hp]; exact readHeaderStep_readsPort s
  · rw [coreStep_of_encode hp, encodeStep_of_top hpe]; exact .inRead fun _ _ => rfl
  · rw [coreStep_of_decode hp, decodeStep_of_top hpe]; exact .inRead fun _ _ => rfl

/-- Only the port, the turn and the record of transactions move before error entry (R314). -/
theorem ReadsPort.fault {x : Host.Outcome State Fault Refusal} {c : Word} {e : FaultEffect} (h : ReadsPort s x)
    (hd : s.draw = .fault c e) :
    ∃ y, x = .next (raise .portFaultIn c { s.turn.record y with inp := s.inp.afterFault e }) := by
  cases h with
  | inRead hf => exact ⟨_, by rw [inRead_fault hd, andThen_next, hf]⟩
  | inReset hf => exact ⟨_, by rw [inReset_fault hd, andThen_next, hf]⟩

/-- Settles O27: every reading phase issues a transaction whose fault raises PORT_FAULT_IN (`coreStep_readsPort`). -/
theorem inputFaultRaisesPortFaultIn : Obligations.InputFaultRaisesPortFaultIn := by
  unfold Obligations.InputFaultRaisesPortFaultIn
  intro s c e hc hd hr
  obtain ⟨y, hs⟩ := (coreStep_readsPort hr).fault hd
  rw [turn_record_frame] at hs
  exact ⟨_, (step_of_coreTurn hc).trans hs, rfl, rfl, rfl, rfl, rfl⟩

/-! ### A fault of the output port -/

/-- A step that issues one OutWrite, of a width the port takes, and raises PORT_FAULT_OUT when that is answered FAULT
(R77, R315). -/
inductive WritesPort (s : State) : Host.Outcome State Fault Refusal → Prop where
  | outWrite {n v : Nat} {f : AckAnswer × State → Host.Outcome State Fault Refusal} (hpos : 1 ≤ n) (hle : n ≤ 256)
    (hf : ∀ c u, f (.fault c, u) = .next (raise .portFaultOut c u)) : WritesPort s (andThen (outWrite n v s) f)

/-- The phases that write (R82). -/
theorem writesNext_cases (h : s.writesNext = true) :
    s.phase = .wmagic ∨ (s.phase = .wheader ∧ s.hstack ≠ []) ∨
      (s.phase = .encode ∧ ∃ k : Fin 257, s.pending = .code k ∧ (s.code[k.val]).len ≠ 0) ∨
      (s.phase = .decode ∧ ∃ b, s.pending = .literal b) := by
  unfold State.writesNext at h
  split at h <;> simp_all

theorem writeNodeToken_writesPort (hk : s.hstack ≠ []) : WritesPort s (writeNodeToken s) := by
  unfold writeNodeToken
  split
  · next hnil => exact absurd hnil hk
  · exact .outWrite (by decide) (by decide) fun _ _ => rfl

theorem writeLeafToken_writesPort {sym : Symbol} (hk : s.hstack ≠ []) : WritesPort s (writeLeafToken sym s) := by
  unfold writeLeafToken
  split
  · next hnil => exact absurd hnil hk
  · split <;> exact .outWrite (by decide) (by decide) fun _ _ => rfl

theorem writeHeaderStep_writesPort (hp : s.phase = .wheader) (hk : s.hstack ≠ []) :
    WritesPort s (writeHeaderStep s) := by
  obtain ⟨f, rest, hcons⟩ := List.exists_cons_of_ne_nil hk
  rw [writeHeaderStep_of_cons hcons]
  cases hl : (s.nodeAt f.node).isLeaf with
  | true => rw [token_of_leaf hl, exec, execLeaf_of_wheader hp]; exact writeLeafToken_writesPort hk
  | false => rw [token_of_node hl, exec, execNode_of_wheader hp]; exact writeNodeToken_writesPort hk

/-- A code that is written has 1 to 256 bits (R48, R77). -/
theorem encodeWrite_writesPort {k : Fin 257} (hc : (s.code[k.val]).len ≠ 0) : WritesPort s (encodeWrite k s) := by
  have hpos : 1 ≤ (s.code[k.val]).len.val := Nat.one_le_iff_ne_zero.mpr (Fin.val_ne_zero_iff.mpr hc)
  exact .outWrite hpos (by omega) fun _ _ => rfl

theorem coreStep_writesPort (h : s.writesNext = true) : WritesPort s (coreStep s) := by
  obtain hp | ⟨hp, hk⟩ | ⟨hp, k, hpe, hc⟩ | ⟨hp, b, hpe⟩ := writesNext_cases h
  · rw [coreStep_of_wmagic hp]; exact .outWrite (by decide) (by decide) fun _ _ => rfl
  · rw [coreStep_of_wheader hp]; exact writeHeaderStep_writesPort hp hk
  · rw [coreStep_of_encode hp, encodeStep_of_code hpe]; exact encodeWrite_writesPort hc
  · rw [coreStep_of_decode hp, decodeStep_of_literal hpe]; exact .outWrite (by decide) (by decide) fun _ _ => rfl

/-- Only the port, the turn and the record of transactions move before error entry (R315). -/
theorem WritesPort.fault {x : Host.Outcome State Fault Refusal} {c : Word} {e : FaultEffect} (h : WritesPort s x)
    (ho : s.out.oc = false) (hd : s.draw = .fault c e) :
    ∃ y, x = .next (raise .portFaultOut c { s.turn.record y with out := { s.out with ob := s.out.ob ++ e.bits } }) := by
  cases h with
  | outWrite hpos hle hf => exact ⟨_, by rw [outWrite_fault hpos hle ho hd, andThen_next, hf]⟩

/-- Settles O28: every writing phase issues an OutWrite whose fault raises PORT_FAULT_OUT (`coreStep_writesPort`). -/
theorem outputFaultRaisesPortFaultOut : Obligations.OutputFaultRaisesPortFaultOut := by
  unfold Obligations.OutputFaultRaisesPortFaultOut
  intro s c e hc hd hw ho
  obtain ⟨y, hs⟩ := (coreStep_writesPort hw).fault ho hd
  rw [turn_record_frame] at hs
  exact ⟨_, (step_of_coreTurn hc).trans hs, rfl, rfl, rfl, rfl, rfl⟩

/-! ### READ_MAGIC -/

theorem readMagicStep_eoi (hd : s.draw = .serve) (hx : s.inp.exhausted 32 = true) :
    readMagicStep s = .next (raise .badMagic 0#32 (s.afterEoi 32)) := by
  simp [readMagicStep, inRead_eoi hd hx]

/-- The 32 bits read are the word MAGIC exactly when they are its number. -/
theorem ofNat_field_eq_iff {p : InPort} {w : Word} : BitVec.ofNat 32 (p.field 32) = w ↔ p.field 32 = w.toNat := by
  rw [← BitVec.toNat_inj, BitVec.toNat_ofNat, Nat.mod_eq_of_lt field_lt]

/-- READ_MAGIC's read of a value: whether it is MAGIC decides (R265). -/
theorem readMagicStep_value (hd : s.draw = .serve) (hx : s.inp.exhausted 32 = false) :
    readMagicStep s = if s.inp.field 32 = s.magic.toNat then .next (startReadHeader (s.afterRead 32))
      else .next (raise .badMagic (BitVec.ofNat 32 (s.inp.field 32)) (s.afterRead 32)) := by
  simp [readMagicStep, inRead_value hd hx, ofNat_field_eq_iff]

/-- Settles O45: READ_MAGIC's read is answered EOI (`readMagicStep_eoi`) or with a value (`readMagicStep_value`). -/
theorem readMagicComparesWithTheConstant : Obligations.ReadMagicComparesWithTheConstant := by
  unfold Obligations.ReadMagicComparesWithTheConstant
  intro s hs hp
  obtain ⟨hturn, hd⟩ := served_iff.mp hs
  rw [step_of_coreTurn hturn, coreStep_of_rmagic hp]
  exact ⟨fun hx => readMagicStep_eoi hd hx, fun hx hne => (readMagicStep_value hd hx).trans (if_neg hne),
    fun hx heq => (readMagicStep_value hd hx).trans (if_pos heq)⟩

end Sys2Proof.Machine

/-! ## Reset and hazards (70_reset_and_hazards.md): silent ports, the reset event, and the host's use of the ports -/
namespace Sys2Proof.Machine

variable {s : State}

/-! ### A port that never answers -/

theorem ReadsPort.silent {x : Host.Outcome State Fault Refusal} (h : ReadsPort s x) (hd : s.draw = .silent) :
    x = .fault .portNeverAnswers := by
  cases h with
  | inRead _ => rw [inRead_silent hd, andThen_fault]
  | inReset _ => rw [inReset_silent hd, andThen_fault]

theorem WritesPort.silent {x : Host.Outcome State Fault Refusal} (h : WritesPort s x) (ho : s.out.oc = false)
    (hd : s.draw = .silent) : x = .fault .portNeverAnswers := by
  cases h with
  | outWrite hpos hle _ => rw [outWrite_silent hpos hle ho hd, andThen_fault]

theorem closeStep_silent (ho : s.out.oc = false) (hd : s.draw = .silent) :
    closeStep s = .fault .portNeverAnswers := by
  rw [closeStep, outClose_silent ho hd, andThen_fault]

/-- Settles O29: a step that reads, writes or closes opens with its transaction, whose silence is the step's. -/
theorem silentPortLeavesTheCoreStuck : Obligations.SilentPortLeavesTheCoreStuck := by
  unfold Obligations.SilentPortLeavesTheCoreStuck
  intro s hc hd hnext
  rw [step_of_coreTurn hc]
  obtain hr | ⟨hp | hw, ho⟩ := hnext
  · exact (coreStep_readsPort hr).silent hd
  · rw [coreStep_of_close hp]; exact closeStep_silent ho hd
  · exact (coreStep_writesPort hw).silent ho hd

/-! ### The reset event -/

/-- An idle core takes every command word, when the streams are as R354, R356 and R364 ask: COMPRESS and DECOMPRESS then
run, and any other word is done at once. -/
theorem exec_decodeCommand_taken {w : Word} (hb : s.status.busy = false) (ha : s.aliased = false)
    (ho : s.out.oc = false) (hic : w = 1#32 → s.inp.ic = 0) :
    ∃ u, exec (decodeCommand w) s = .next u ∧ (u.status.busy = true ∨ u.status.done = true) := by
  unfold decodeCommand
  split
  · next hw => exact ⟨_, launch_idle hb ha (atStart_iff.mpr (hic hw)) ho, .inl rfl⟩
  split
  · exact ⟨_, launch_idle hb ha rfl ho, .inl rfl⟩
  · exact ⟨_, execIllegal_idle (w := w) hb, .inr rfl⟩

/-- Settles O2: the step is `coreReset`, whose core is idle, so it takes the next command word. -/
theorem resetEventGivesTheResetState : Obligations.ResetEventGivesTheResetState := by
  unfold Obligations.ResetEventGivesTheResetState
  intro s inp out rest h
  have hword : State.reset.status.word = 0#32 := by decide
  refine ⟨coreReset inp out { s with inputs := rest }, step_of_hostTurn h, hword, rfl, rfl, rfl, rfl, rfl, rfl, rfl,
    fun hb => ?idle, fun hb => ?busy, fun ha ho w hic => ?next⟩
  case idle => simp [hb]
  case busy => simp [hb]
  case next => exact exec_decodeCommand_taken (s := { coreReset inp out s with inputs := rest }) rfl ha ho hic

/-! ### Launches that are refused -/

section
variable {op : Op} {placed : Bool} {start : State → State}

theorem launch_aliased (hb : s.status.busy = false) (ha : s.aliased = true) :
    launch op placed start s = .refused .streamsAliased := by
  simp [launch, hb, ha]

theorem launch_misplaced (hb : s.status.busy = false) (ha : s.aliased = false) (hp : placed = false) :
    launch op placed start s = .refused .cursorNotAtStart := by
  simp [launch, hb, ha, hp]

theorem launch_closed (hb : s.status.busy = false) (ha : s.aliased = false) (hp : placed = true)
    (ho : s.out.oc = true) : launch op placed start s = .refused .outputNotOpen := by
  simp [launch, hb, ha, hp, ho]

end

/-! ### The host's use of the ports -/

/-- The host's uses of a port that the contract forbids while BUSY (R360, X27). -/
def HostEvent.usesPort : HostEvent → Bool
  | .connect _ _ _ | .openOutput | .closeOutput | .portRead _ | .portRewind | .portWrite _ _ => true
  | .regRead _ _ | .regWrite _ _ _ | .reset _ _ | .sourceChange _ => false

theorem hostStep_usesPort_busy {e : HostEvent} (he : e.usesPort = true) (hb : s.status.busy = true) :
    hostStep e s = .refused .portInUse := by
  cases e with
  | connect | openOutput | closeOutput | portRead | portRewind | portWrite => exact portUse_busy hb
  | regRead | regWrite | reset | sourceChange => exact absurd he Bool.false_ne_true

theorem step_usesPort_busy {e : HostEvent} {rest : List Input} (he : e.usesPort = true) (hb : s.status.busy = true)
    (h : s.hostTurn e rest) : step s = .refused .portInUse :=
  (step_of_hostTurn h).trans (hostStep_usesPort_busy he hb)

/-- The widths of R72. -/
theorem hostRead_refused {n : Nat} (hn : ¬ (n = 1 ∨ n = 8 ∨ n = 9 ∨ n = 32)) :
    hostRead n s = .refused .badPortAccess := by
  rw [hostRead, if_pos hn]

theorem hostRead_value {n : Nat} (hn : n = 1 ∨ n = 8 ∨ n = 9 ∨ n = 32) (hx : s.inp.exhausted n = false) :
    hostRead n s = .next { s with
      inp := { s.inp with ic := s.inp.ic + n }, hostData := BitVec.ofNat 32 (s.inp.field n) } := by
  simp [hostRead, hn, hx]

theorem hostRead_eoi {n : Nat} (hn : n = 1 ∨ n = 8 ∨ n = 9 ∨ n = 32) (hx : s.inp.exhausted n = true) :
    hostRead n s = .next { s with inp := s.inp.afterEoi s.freeIdx, freeIdx := s.freeIdx + 1 } := by
  simp [hostRead, hn, hx]

/-- The widths and values of R77. -/
theorem hostWrite_refused {n v : Nat} (hn : n = 0 ∨ 256 < n ∨ 2 ^ n ≤ v) :
    hostWrite n v s = .refused .badPortAccess := by
  rw [hostWrite, if_pos hn]

theorem hostWrite_closed {n v : Nat} (h1 : 1 ≤ n) (h2 : n ≤ 256) (hv : v < 2 ^ n) (ho : s.out.oc = true) :
    hostWrite n v s = .refused .outputNotOpen := by
  rw [hostWrite, if_neg (by omega), if_pos ho]

theorem hostWrite_open {n v : Nat} (h1 : 1 ≤ n) (h2 : n ≤ 256) (hv : v < 2 ^ n) (ho : s.out.oc = false) :
    hostWrite n v s = .next { s with out := { s.out with ob := s.out.ob ++ bin n v } } := by
  rw [hostWrite, if_neg (by omega), if_neg (by simp [ho])]

theorem closed_oc (p : OutPort) : p.closed.oc = true := by
  unfold OutPort.closed
  split
  · assumption
  · rfl

theorem closed_of_closed {p : OutPort} (h : p.oc = true) : p.closed = p := by
  rw [OutPort.closed, if_pos h]

/-- What the host's closing delivers of an open output are its padded bits (R78). -/
theorem closed_delivers {p : OutPort} (h : p.oc = false) :
    p.closed.ob = padded p.ob ∧ bitsOf p.closed.sink = p.closed.ob := by
  rw [closed_of_open h]
  exact ⟨rfl, bitsOf_bytesOf_padded _⟩

/-- Settles O10: a launch on an idle core, a use of a port on a busy one (`step_usesPort_busy`) and on an idle one
(`portUse_idle`), and a source change. -/
theorem hostDutiesAtThePorts : Obligations.HostDutiesAtThePorts := by
  unfold Obligations.HostDutiesAtThePorts
  refine ⟨fun s hb => ⟨fun ha => ?aliased, fun ha hic => ?misplaced, fun ha hic ho => ?compressClosed,
    fun ha ho => ?decompressClosed⟩,
    fun s src cursor n v aliased rest => ⟨fun hb => ?busy, fun hb => ?idle, fun h => ?sourceChange⟩⟩
  case aliased => exact ⟨launch_aliased hb ha, launch_aliased hb ha⟩
  case misplaced => exact launch_misplaced hb ha (Bool.eq_false_iff.mpr (mt atStart_iff.mp hic))
  case compressClosed => exact launch_closed hb ha (atStart_iff.mpr hic) ho
  case decompressClosed => exact launch_closed hb ha rfl ho
  case busy =>
    exact ⟨step_usesPort_busy rfl hb, step_usesPort_busy rfl hb, step_usesPort_busy rfl hb, step_usesPort_busy rfl hb,
      step_usesPort_busy rfl hb, step_usesPort_busy rfl hb⟩
  case idle =>
    refine ⟨fun h => ?connect, fun h => ?openOutput, fun h => ?closeOutput, fun h => ?rewind, fun h => ?read,
      fun h => ?write⟩ <;> rw [step_of_hostTurn h]
    case connect | openOutput | rewind => exact portUse_idle hb
    case closeOutput =>
      exact ⟨_, portUse_idle hb, closed_oc _, closed_of_closed, closed_delivers, rfl⟩
    case read =>
      exact ⟨fun hn => (portUse_idle hb).trans (hostRead_refused hn),
        fun hn hx => (portUse_idle hb).trans (hostRead_value hn hx),
        fun hn hx => ⟨_, afterEoi_cursor_le s.inp s.freeIdx, (portUse_idle hb).trans (hostRead_eoi hn hx)⟩⟩
    case write =>
      exact ⟨fun hn => (portUse_idle hb).trans (hostWrite_refused hn),
        fun h1 h2 hv ho => (portUse_idle hb).trans (hostWrite_closed h1 h2 hv ho),
        fun h1 h2 hv ho => (portUse_idle hb).trans (hostWrite_open h1 h2 hv ho)⟩
  case sourceChange => exact step_of_hostTurn h

end Sys2Proof.Machine
